-- ==== Sys2Proof/Word.lean ====
section
/-! DEFINITION. The word types of the block (spec/00_scope.md R10, spec/30_encoding.md R100 and R106): bit 0 is the least
significant bit, `a ++ b` is the spec's concatenation with `a` most significant. -/

namespace Sys2Proof

/-- A byte of a buffer space (R70). -/
abbrev Byte := BitVec 8

/-- A 16-bit register or operand value. -/
abbrev Half := BitVec 16

/-- A 32-bit event word (R100), and the width of `NOW` and of every time stamp (R12). -/
abbrev Word := BitVec 32

/-- A 64-bit action word (R106). -/
abbrev ActionWord := BitVec 64

/-- `w[lo+n-1 : lo]` (R10). -/
def slice {w : Nat} (v : BitVec w) (lo n : Nat) : BitVec n := v.extractLsb' lo n

/-- One bit as a vector of width 1. -/
def bit (b : Bool) : BitVec 1 := BitVec.ofBool b

end Sys2Proof
end

