-- ==== Sys2Proof/Syntax.lean ====
section
/-! DEFINITION. The event words (spec/30_encoding.md R103 to R105): one constructor for each row of spec/opcode_table.json,
its operands those of R102 at the widths of R100. An operand the spec calls illegal (leg 3, a character that is no digit, a
space number without a space) is still an operand of a legal code: the word is decoded and its rule raises `E_BADARG` or
`E_BADADDR` (R110). -/

namespace Sys2Proof

/-- An event word, by its row of the opcode table. -/
inductive Instr where
  /-- HW.NONE, `0x00` -/
  | hwNone
  /-- HW.ONHOOK, `0x01` -/
  | hwOnhook
  /-- HW.OFFHOOK, `0x02` -/
  | hwOffhook
  /-- HW.RINGOFFHOOK, `0x03` -/
  | hwRingoffhook
  /-- HW.WINKFLASH, `0x04` -/
  | hwWinkflash
  /-- HW.RINGBEGIN, `0x05` -/
  | hwRingbegin
  /-- HW.RINGOFF, `0x06` -/
  | hwRingoff
  /-- HW.DIALCOMPLETE, `0x07` -/
  | hwDialcomplete
  /-- HW.POLARITY, `0x08` -/
  | hwPolarity
  /-- HW.ALARM, `0x09` -/
  | hwAlarm
  /-- HW.NOALARM, `0x0A` -/
  | hwNoalarm
  /-- HW.PULSEDIGIT, `0x0B` -/
  | hwPulsedigit (digit : Byte)
  /-- HW.DTMFDIGIT, `0x0C` -/
  | hwDtmfdigit (digit : Byte)
  /-- FAKE.NONE, `0x40` -/
  | fakeNone
  /-- FAKE.ONHOOK, `0x41` -/
  | fakeOnhook
  /-- FAKE.OFFHOOK, `0x42` -/
  | fakeOffhook
  /-- FAKE.RINGOFFHOOK, `0x43` -/
  | fakeRingoffhook
  /-- FAKE.WINKFLASH, `0x44` -/
  | fakeWinkflash
  /-- FAKE.RINGBEGIN, `0x45` -/
  | fakeRingbegin
  /-- FAKE.RINGOFF, `0x46` -/
  | fakeRingoff
  /-- FAKE.DIALCOMPLETE, `0x47` -/
  | fakeDialcomplete
  /-- FAKE.POLARITY, `0x48` -/
  | fakePolarity
  /-- FAKE.ALARM, `0x49` -/
  | fakeAlarm
  /-- FAKE.NOALARM, `0x4A` -/
  | fakeNoalarm
  /-- FAKE.PULSEDIGIT, `0x4B` -/
  | fakePulsedigit (digit : Byte)
  /-- FAKE.DTMFDIGIT, `0x4C` -/
  | fakeDtmfdigit (digit : Byte)
  /-- HOST.CFGWR, `0x81` -/
  | hostCfgwr (reg : Byte) (value : Half)
  /-- HOST.CFGDONE, `0x82` -/
  | hostCfgdone
  /-- HOST.RESET, `0x83` -/
  | hostReset
  /-- HOST.MEMWR, `0x84` -/
  | hostMemwr (space : BitVec 3) (addr data : Byte)
  /-- HOST.RDREG, `0x85` -/
  | hostRdreg (reg : Byte)
  /-- HOST.MEMRD, `0x86` -/
  | hostMemrd (space : BitVec 3) (addr : Half)
  /-- HOST.ALLOC, `0x90` -/
  | hostAlloc (leg : BitVec 2)
  /-- HOST.RELEASE, `0x91` -/
  | hostRelease (leg : BitVec 2)
  /-- HOST.SWAP, `0x92` -/
  | hostSwap (a b : BitVec 2)
  /-- HOST.RECONCILE, `0x93` -/
  | hostReconcile
  /-- HOST.SLAVEADD, `0x94` -/
  | hostSlaveadd (line : Byte) (law : Bool)
  /-- HOST.SLAVEDEL, `0x95` -/
  | hostSlavedel (line : Byte)
  /-- HOST.MASTERSET, `0x96` -/
  | hostMasterset (line : Byte) (valid native : Bool) (confno : Byte)
  /-- HOST.MASTERCLR, `0x97` -/
  | hostMasterclr
  /-- HOST.INCONF, `0x98` -/
  | hostInconf (b : Bool)
  /-- HOST.CALL, `0xA0` -/
  | hostCall (mode : Bool) (n tag : Byte)
  /-- HOST.UP, `0xA1` -/
  | hostUp (leg : BitVec 2)
  /-- HOST.HANGUP, `0xA2` -/
  | hostHangup (leg : BitVec 2)
  /-- HOST.CWOFFER, `0xA3` -/
  | hostCwoffer (tag : Byte)
  /-- HOST.POLL, `0xA4` -/
  | hostPoll (leg : BitVec 2)
  /-- HOST.SETLINEAR, `0xA5` -/
  | hostSetlinear (leg : BitVec 2) (b : Bool)
  /-- HOST.MWINOTIFY, `0xA6` -/
  | hostMwinotify (b : Bool)
  /-- HOST.INDICATE, `0xA7` -/
  | hostIndicate (cond : BitVec 2)
  /-- TIME.TICK, `0xC1` -/
  | timeTick (rxvalid txready : Bool)
  /-- TIME.LRFATAL, `0xC2` -/
  | timeLrfatal
  deriving DecidableEq, Repr

end Sys2Proof
end

