-- ==== Sys2Proof/WellFormed.lean ====
section
/-! DEFINITION. Which event words have legal operands (spec/30_encoding.md R102, R110, R112; spec/20_memory.md R70). A word
that is not well formed is still decoded: its rule raises the error R110 names and is absorbed. -/

namespace Sys2Proof

/-- A leg operand names a leg: 3 is illegal (R102). -/
def wfLeg (leg : BitVec 2) : Bool := leg != 3#2

/-- `'0'..'9'`, the digits of `PULSEDIGIT` (R160). -/
def wfPulse (d : Byte) : Bool := 0x30#8 ≤ d && d ≤ 0x39#8

/-- `'0'..'9', '*', '#', 'A'..'D'`, the digits of `DTMFDIGIT` (R102, R161). -/
def wfDtmf (d : Byte) : Bool := wfPulse d || d == 0x2A#8 || d == 0x23#8 || (0x41#8 ≤ d && d ≤ 0x44#8)

/-- A configuration register that exists, with a legal value (R112). -/
def wfCfg (reg : Byte) (value : Half) : Bool :=
  reg < 0x1D#8 &&
  !(reg == 0x00#8 && 10#4 < slice value 0 4) &&
  !(reg == 0x02#8 && (slice value 0 2 == 3#2 || slice value 2 2 == 3#2))

/-- A host-writable buffer byte: `CIDMSG` or `DIALBUF`, 64 bytes each (R70, R383): the check is of
the default sizes, the word's own rule reads those of the instance (notes/assumptions/8.md). -/
def wfMemWrite (space : BitVec 3) (addr : Byte) : Bool := space ≤ 1#3 && addr < 64#8

/-- The default sizes of R70, by space number; number 7 is no space. -/
def wfSpaceSize (space : BitVec 3) : Nat :=
  match space.toNat with
  | 0 => 64
  | 1 => 64
  | 2 => 32768
  | 3 => 160
  | 4 => 32768
  | 5 => 32
  | 6 => 64
  | _ => 0

/-- A buffer byte that exists in an instance of the default sizes (R70, R385; notes/assumptions/8.md). -/
def wfMemRead (space : BitVec 3) (addr : Half) : Bool := addr.toNat < wfSpaceSize space

/-- The word's operands are all legal, in an instance of the default sizes: no rule raises `E_BADARG` or `E_BADADDR` for them alone. -/
def WellFormed : Instr → Bool
  | .hwPulsedigit d => wfPulse d
  | .fakePulsedigit d => wfPulse d
  | .hwDtmfdigit d => wfDtmf d
  | .fakeDtmfdigit d => wfDtmf d
  | .hostCfgwr reg value => wfCfg reg value
  | .hostMemwr space addr _ => wfMemWrite space addr
  | .hostMemrd space addr => wfMemRead space addr
  | .hostAlloc leg => wfLeg leg
  | .hostRelease leg => wfLeg leg
  | .hostSwap a b => wfLeg a && wfLeg b
  | .hostUp leg => wfLeg leg
  | .hostHangup leg => wfLeg leg
  | .hostPoll leg => wfLeg leg
  | .hostSetlinear leg _ => wfLeg leg
  | .hwNone => true
  | .hwOnhook => true
  | .hwOffhook => true
  | .hwRingoffhook => true
  | .hwWinkflash => true
  | .hwRingbegin => true
  | .hwRingoff => true
  | .hwDialcomplete => true
  | .hwPolarity => true
  | .hwAlarm => true
  | .hwNoalarm => true
  | .fakeNone => true
  | .fakeOnhook => true
  | .fakeOffhook => true
  | .fakeRingoffhook => true
  | .fakeWinkflash => true
  | .fakeRingbegin => true
  | .fakeRingoff => true
  | .fakeDialcomplete => true
  | .fakePolarity => true
  | .fakeAlarm => true
  | .fakeNoalarm => true
  | .hostCfgdone => true
  | .hostReset => true
  | .hostRdreg _ => true
  | .hostReconcile => true
  | .hostSlaveadd _ _ => true
  | .hostSlavedel _ => true
  | .hostMasterset _ _ _ _ => true
  | .hostMasterclr => true
  | .hostInconf _ => true
  | .hostCall _ _ _ => true
  | .hostCwoffer _ => true
  | .hostMwinotify _ => true
  | .hostIndicate _ => true
  | .timeTick _ _ => true
  | .timeLrfatal => true

end Sys2Proof
end

