-- ==== Sys2Proof/Decode.lean ====
section
/-! DEFINITION. Decoding and encoding of event words (spec/30_encoding.md R100 to R105, R109): the format
`SRC[31:30] CODE[29:24] A8[23:16] A16[15:0]`; a word is selected by `W[31:24]` alone; operand bits a word does not define
are ignored by the decoder and written 0 by the encoder (spec/93_implementation_defined.md section 2). -/

namespace Sys2Proof

/-- Why a word is no event word (R109), or why bytes are no word. -/
inductive DecodeError where
  /-- `SRC = HW`, code 0x0D..0x3F -/
  | undefinedHw (code : BitVec 6)
  /-- `SRC = FAKE`, code 0x0D..0x3F -/
  | undefinedFake (code : BitVec 6)
  /-- `SRC = HOST`, code 0x00, 0x07..0x0F, 0x19..0x1F, 0x28..0x3F -/
  | undefinedHost (code : BitVec 6)
  /-- `SRC = TIME`, code 0x00, 0x03..0x3F -/
  | undefinedTime (code : BitVec 6)
  /-- fewer than the four bytes of a word -/
  | truncated
  deriving DecidableEq, Repr

/-- `SRC`, `W[31:30]` (R100). -/
def srcOf (w : Word) : BitVec 2 := slice w 30 2
/-- `CODE`, `W[29:24]` (R100). -/
def codeOf (w : Word) : BitVec 6 := slice w 24 6
/-- `A8`, `W[23:16]` (R100). -/
def a8Of (w : Word) : Byte := slice w 16 8
/-- `A16`, `W[15:0]` (R100). -/
def a16Of (w : Word) : Half := slice w 0 16

/-- A leg operand, `A8[1:0]` (R102). -/
def legField (w : Word) : BitVec 2 := slice (a8Of w) 0 2
/-- A digit operand or an owner tag, `A16[7:0]` (R102). -/
def lowByte (w : Word) : Byte := slice (a16Of w) 0 8
/-- `A16[15:8]`: the address of `MEMWR`, the digit count of `CALL` (R102, R104). -/
def highByte (w : Word) : Byte := slice (a16Of w) 8 8
/-- A space number, `A8[2:0]` (R102). -/
def spaceField (w : Word) : BitVec 3 := slice (a8Of w) 0 3
/-- Bit `n` of `A16`. -/
def a16Bit (w : Word) (n : Nat) : Bool := (a16Of w).getLsbD n

/-- R103, `SRC = HW`. -/
def decodeHw (w : Word) : Except DecodeError Instr :=
  match (codeOf w).toNat with
  | 0x00 => .ok .hwNone
  | 0x01 => .ok .hwOnhook
  | 0x02 => .ok .hwOffhook
  | 0x03 => .ok .hwRingoffhook
  | 0x04 => .ok .hwWinkflash
  | 0x05 => .ok .hwRingbegin
  | 0x06 => .ok .hwRingoff
  | 0x07 => .ok .hwDialcomplete
  | 0x08 => .ok .hwPolarity
  | 0x09 => .ok .hwAlarm
  | 0x0A => .ok .hwNoalarm
  | 0x0B => .ok (.hwPulsedigit (lowByte w))
  | 0x0C => .ok (.hwDtmfdigit (lowByte w))
  | _ => .error (.undefinedHw (codeOf w))

/-- R103, `SRC = FAKE`: identical codes. -/
def decodeFake (w : Word) : Except DecodeError Instr :=
  match (codeOf w).toNat with
  | 0x00 => .ok .fakeNone
  | 0x01 => .ok .fakeOnhook
  | 0x02 => .ok .fakeOffhook
  | 0x03 => .ok .fakeRingoffhook
  | 0x04 => .ok .fakeWinkflash
  | 0x05 => .ok .fakeRingbegin
  | 0x06 => .ok .fakeRingoff
  | 0x07 => .ok .fakeDialcomplete
  | 0x08 => .ok .fakePolarity
  | 0x09 => .ok .fakeAlarm
  | 0x0A => .ok .fakeNoalarm
  | 0x0B => .ok (.fakePulsedigit (lowByte w))
  | 0x0C => .ok (.fakeDtmfdigit (lowByte w))
  | _ => .error (.undefinedFake (codeOf w))

/-- R104, `SRC = HOST`. -/
def decodeHost (w : Word) : Except DecodeError Instr :=
  match (codeOf w).toNat with
  | 0x01 => .ok (.hostCfgwr (a8Of w) (a16Of w))
  | 0x02 => .ok .hostCfgdone
  | 0x03 => .ok .hostReset
  | 0x04 => .ok (.hostMemwr (spaceField w) (highByte w) (lowByte w))
  | 0x05 => .ok (.hostRdreg (a8Of w))
  | 0x06 => .ok (.hostMemrd (spaceField w) (a16Of w))
  | 0x10 => .ok (.hostAlloc (legField w))
  | 0x11 => .ok (.hostRelease (legField w))
  | 0x12 => .ok (.hostSwap (slice (a8Of w) 4 2) (legField w))
  | 0x13 => .ok .hostReconcile
  | 0x14 => .ok (.hostSlaveadd (a8Of w) (a16Bit w 0))
  | 0x15 => .ok (.hostSlavedel (a8Of w))
  | 0x16 => .ok (.hostMasterset (a8Of w) (a16Bit w 9) (a16Bit w 8) (lowByte w))
  | 0x17 => .ok .hostMasterclr
  | 0x18 => .ok (.hostInconf (a16Bit w 0))
  | 0x20 => .ok (.hostCall ((a8Of w).getLsbD 0) (highByte w) (lowByte w))
  | 0x21 => .ok (.hostUp (legField w))
  | 0x22 => .ok (.hostHangup (legField w))
  | 0x23 => .ok (.hostCwoffer (lowByte w))
  | 0x24 => .ok (.hostPoll (legField w))
  | 0x25 => .ok (.hostSetlinear (legField w) (a16Bit w 0))
  | 0x26 => .ok (.hostMwinotify (a16Bit w 0))
  | 0x27 => .ok (.hostIndicate (legField w))
  | _ => .error (.undefinedHost (codeOf w))

/-- R105, `SRC = TIME`. -/
def decodeTime (w : Word) : Except DecodeError Instr :=
  match (codeOf w).toNat with
  | 0x01 => .ok (.timeTick (a16Bit w 1) (a16Bit w 0))
  | 0x02 => .ok .timeLrfatal
  | _ => .error (.undefinedTime (codeOf w))

/-- The operation a word selects (R100, R101). -/
def decode (w : Word) : Except DecodeError Instr :=
  match (srcOf w).toNat with
  | 0 => decodeHw w
  | 1 => decodeFake w
  | 2 => decodeHost w
  | _ => decodeTime w

/-- The word of four bytes, least significant byte first (R74). -/
def wordOfBytes (b0 b1 b2 b3 : Byte) : Word := b3 ++ b2 ++ b1 ++ b0

/-- The four bytes of a word, least significant byte first (R74). -/
def bytesOfWord (w : Word) : List Byte := [slice w 0 8, slice w 8 8, slice w 16 8, slice w 24 8]

/-- Decoding from stored bytes: the operation and the bytes after it. -/
def decodeBytes : List Byte → Except DecodeError (Instr × List Byte)
  | b0 :: b1 :: b2 :: b3 :: rest =>
    match decode (wordOfBytes b0 b1 b2 b3) with
    | .ok i => .ok (i, rest)
    | .error e => .error e
  | _ => .error .truncated

/-! ### Encoding -/

/-- The word of the four fields of R100. -/
def evWord (src : BitVec 2) (code : BitVec 6) (a8 : Byte) (a16 : Half) : Word := src ++ code ++ a8 ++ a16

/-- `A16` with a byte in `[7:0]` and a byte in `[15:8]`. -/
def halfOf (hi lo : Byte) : Half := hi ++ lo
/-- `A8` with a leg in `[1:0]`. -/
def legByte (leg : BitVec 2) : Byte := 0#6 ++ leg
/-- `A8` with a space number in `[2:0]`. -/
def spaceByte (space : BitVec 3) : Byte := 0#5 ++ space
/-- `A16` with one flag in bit 0. -/
def flagHalf (b : Bool) : Half := 0#15 ++ bit b

/-- The canonical word of an operation: undefined operand bits are 0. -/
def encode : Instr → Word
  | .hwNone => evWord 0 0x00 0 0
  | .hwOnhook => evWord 0 0x01 0 0
  | .hwOffhook => evWord 0 0x02 0 0
  | .hwRingoffhook => evWord 0 0x03 0 0
  | .hwWinkflash => evWord 0 0x04 0 0
  | .hwRingbegin => evWord 0 0x05 0 0
  | .hwRingoff => evWord 0 0x06 0 0
  | .hwDialcomplete => evWord 0 0x07 0 0
  | .hwPolarity => evWord 0 0x08 0 0
  | .hwAlarm => evWord 0 0x09 0 0
  | .hwNoalarm => evWord 0 0x0A 0 0
  | .hwPulsedigit d => evWord 0 0x0B 0 (halfOf 0 d)
  | .hwDtmfdigit d => evWord 0 0x0C 0 (halfOf 0 d)
  | .fakeNone => evWord 1 0x00 0 0
  | .fakeOnhook => evWord 1 0x01 0 0
  | .fakeOffhook => evWord 1 0x02 0 0
  | .fakeRingoffhook => evWord 1 0x03 0 0
  | .fakeWinkflash => evWord 1 0x04 0 0
  | .fakeRingbegin => evWord 1 0x05 0 0
  | .fakeRingoff => evWord 1 0x06 0 0
  | .fakeDialcomplete => evWord 1 0x07 0 0
  | .fakePolarity => evWord 1 0x08 0 0
  | .fakeAlarm => evWord 1 0x09 0 0
  | .fakeNoalarm => evWord 1 0x0A 0 0
  | .fakePulsedigit d => evWord 1 0x0B 0 (halfOf 0 d)
  | .fakeDtmfdigit d => evWord 1 0x0C 0 (halfOf 0 d)
  | .hostCfgwr reg value => evWord 2 0x01 reg value
  | .hostCfgdone => evWord 2 0x02 0 0
  | .hostReset => evWord 2 0x03 0 0
  | .hostMemwr space addr data => evWord 2 0x04 (spaceByte space) (halfOf addr data)
  | .hostRdreg reg => evWord 2 0x05 reg 0
  | .hostMemrd space addr => evWord 2 0x06 (spaceByte space) addr
  | .hostAlloc leg => evWord 2 0x10 (legByte leg) 0
  | .hostRelease leg => evWord 2 0x11 (legByte leg) 0
  | .hostSwap a b => evWord 2 0x12 (0#2 ++ a ++ 0#2 ++ b) 0
  | .hostReconcile => evWord 2 0x13 0 0
  | .hostSlaveadd line law => evWord 2 0x14 line (flagHalf law)
  | .hostSlavedel line => evWord 2 0x15 line 0
  | .hostMasterset line valid native confno => evWord 2 0x16 line (0#6 ++ bit valid ++ bit native ++ confno)
  | .hostMasterclr => evWord 2 0x17 0 0
  | .hostInconf b => evWord 2 0x18 0 (flagHalf b)
  | .hostCall mode n tag => evWord 2 0x20 (0#7 ++ bit mode) (halfOf n tag)
  | .hostUp leg => evWord 2 0x21 (legByte leg) 0
  | .hostHangup leg => evWord 2 0x22 (legByte leg) 0
  | .hostCwoffer tag => evWord 2 0x23 0 (halfOf 0 tag)
  | .hostPoll leg => evWord 2 0x24 (legByte leg) 0
  | .hostSetlinear leg b => evWord 2 0x25 (legByte leg) (flagHalf b)
  | .hostMwinotify b => evWord 2 0x26 0 (flagHalf b)
  | .hostIndicate cond => evWord 2 0x27 (legByte cond) 0
  | .timeTick rxvalid txready => evWord 3 0x01 0 (0#14 ++ bit rxvalid ++ bit txready)
  | .timeLrfatal => evWord 3 0x02 0 0

/-- The stored bytes of an operation. -/
def encodeBytes (i : Instr) : List Byte := bytesOfWord (encode i)

/-- The host's view of the decoder: `w` is an instruction of `nbits` bits, bit 0 least significant, every bit above zero;
it is laid out as bytes and given to `decodeBytes`. -/
def decodeTableWord (nbits w : Nat) : Option Instr :=
  match decodeBytes (bytesOfWord (BitVec.ofNat 32 (w % 2 ^ nbits))) with
  | .ok (i, _) => some i
  | .error _ => none

end Sys2Proof
end

