-- ==== Sys2Proof/Config.lean ====
section
/-! DEFINITION. What an instance of the block fixes: the parameters of spec/00_scope.md R9 and of spec/44_fsk_codec.md
(`Params`, an argument of the machine: every state carries one; spec/93_implementation_defined.md section 5 makes all of
them parameters), the configuration functions of R318 with their laws, and the two sources of free values (the answers of
the Line Resource, R8 and R435, and the received frames, R73). -/

namespace Sys2Proof.Config

/-- How many slave entries there are places for: R37 numbers `SLAVE[0..3]` and no more. -/
abbrev slaveSlots : Nat := 4
/-- How many gaps there are places for: R32 numbers `GAP[0..2]` and R112 `DRING[p].R[0..2]`, and no more. -/
abbrev gapSlots : Nat := 3
/-- The largest `CID_TIMEOUT_MS` that has an effect of its own: "values above 4080 behave as 4080" (R112). -/
def cidTimeoutMaxMs : Nat := 4080

/-- The companding law of a Line or of a slave (R30, R112): 0 µ-law, 1 A-law. -/
inductive Law where
  | mu
  | a
  deriving DecidableEq, Repr, Inhabited

/-- The two FSK standards (R301). -/
inductive FskStd where
  | bell202
  | v23
  deriving DecidableEq, Repr, Inhabited

/-- The numeric parameters of the codec (spec/93_implementation_defined.md U1 to U3), each with the spec's default. The
machine takes them from its state (`State.par`), so what is proved of all states holds for every choice. -/
structure CodecParams where
  /-- `FS_HZ` (R9, R303) -/
  fsHz : Nat := 8000
  /-- `FRAME_SAMPLES` (R9, R73): the default is 20 ms at 8 kHz -/
  frameSamples : Nat := 160
  /-- `CAS_SHORT_SAMPLES` (R9, R254) -/
  casShortSamples : Nat := 2400
  /-- `CAS_LONG_SAMPLES` (R9, R254) -/
  casLongSamples : Nat := 3080
  /-- `BAUD` (R301, R303) -/
  baud : Nat := 1200
  /-- `MARK_HZ` of Bell 202 (R301). The four frequencies reach only the waveform functions. -/
  markBell202 : Nat := 1200
  /-- `SPACE_HZ` of Bell 202 (R301) -/
  spaceBell202 : Nat := 2200
  /-- `MARK_HZ` of V.23 (R301) -/
  markV23 : Nat := 1300
  /-- `SPACE_HZ` of V.23 (R301) -/
  spaceV23 : Nat := 2100
  /-- `SEIZURE_BITS` (R306) -/
  seizureBits : Nat := 300
  /-- `PRE_MARK_BITS` (R306) -/
  preMarkBits : Nat := 180
  /-- `PRE_MARK_CW_BITS` (R306) -/
  preMarkCwBits : Nat := 80
  /-- `POST_MARK_BITS` (R306) -/
  postMarkBits : Nat := 60
  /-- `MSG_TYPE_CID` (R308) -/
  msgTypeCid : Byte := 0x80#8
  /-- `PARAM_NUMBER` (R308) -/
  paramNumber : Byte := 0x02#8
  /-- `PARAM_NAME` (R308) -/
  paramName : Byte := 0x07#8
  /-- `MSG_TYPE_MWI` (R309) -/
  msgTypeMwi : Byte := 0x82#8
  /-- `PARAM_MWI` (R309) -/
  paramMwi : Byte := 0x0B#8
  /-- `MWI_ON` (R309) -/
  mwiOn : Byte := 0xFF#8
  /-- `MWI_OFF` (R309) -/
  mwiOff : Byte := 0x00#8
  /-- the start marker of the DTMF Caller-ID sequence, `'A'` (R312, R276) -/
  startMarker : Byte := 0x41#8
  /-- the stop marker, `'C'` (R312, R276) -/
  stopMarker : Byte := 0x43#8
  /-- `DTMF_ON_SAMPLES` (R312) -/
  dtmfOnSamples : Nat := 400
  /-- `DTMF_OFF_SAMPLES` (R312) -/
  dtmfOffSamples : Nat := 400
  /-- the four row frequencies of DTMF (R312) -/
  dtmfRows : Vector Nat 4 := #v[697, 770, 852, 941]
  /-- the four column frequencies of DTMF (R312) -/
  dtmfColumns : Vector Nat 4 := #v[1209, 1336, 1477, 1633]
  /-- `SAS_HZ` (R314) -/
  sasHz : Nat := 440
  /-- `CAS_LO_HZ` (R314) -/
  casLoHz : Nat := 2130
  /-- `CAS_HI_HZ` (R314) -/
  casHiHz : Nat := 2750
  /-- `SILENCE[µ-law]` (R315) -/
  silenceMu : Byte := 0xFF#8
  /-- `SILENCE[A-law]` (R315) -/
  silenceA : Byte := 0xD5#8
  deriving DecidableEq, Repr

/-- `SILENCE[law]` (R315): the companded code of linear zero. -/
def CodecParams.silence (p : CodecParams) : Law → Byte
  | .mu => p.silenceMu
  | .a => p.silenceA

/-- R303: the sample at which bit `k` of a bit sequence starts, `ceil(20k/3)` at 8 kHz and 1200 bit/s; a sequence of `n`
bits is `bitStart n` samples long. -/
def CodecParams.bitStart (p : CodecParams) (k : Nat) : Nat := (p.fsHz * k + (p.baud - 1)) / p.baud

/-- The constraint of R306 on any choice of the preamble lengths, `PRE_MARK >= 10`, and what a modem needs: a bit
lasts at least one sample, and so does a DTMF digit; a frame has at least one sample and fits `RXBUF`'s 16-bit addresses,
and the short CAS has a sample and is not longer than the long one (DESIGN CHOICE, notes/assumptions/8.md). -/
abbrev CodecParams.ok (p : CodecParams) : Prop :=
  10 ≤ p.preMarkBits ∧ 10 ≤ p.preMarkCwBits ∧ 0 < p.baud ∧ p.baud ≤ p.fsHz ∧ 0 < p.dtmfOnSamples + p.dtmfOffSamples ∧
  0 < p.frameSamples ∧ p.frameSamples < 65536 ∧ 0 < p.casShortSamples ∧ p.casShortSamples ≤ p.casLongSamples

/-- The parameters of an instance (R9; spec/92_eei_decisions.md, "Open parameters in one list"; the document's literals
too, spec/93_implementation_defined.md section 5), each with the spec's default. -/
structure Params where
  /-- `TICK_MS` (R9, R12) -/
  tickMs : Nat := 20
  /-- `MIN_MS_SINCE_FLASH` (R9, R200) -/
  minMsSinceFlash : Nat := 2000
  /-- `DTMF_SETTLE_MS` (R9, R274) -/
  dtmfSettleMs : Nat := 500
  /-- `MWI_PAUSE_MS` (R9, R345) -/
  mwiPauseMs : Nat := 500
  /-- `MONITOR_TIMEOUT_MS` (R9, R369) -/
  monitorTimeoutMs : Nat := 1000
  /-- the gap value that matches any gap, -1 (R282) -/
  dringWildcard : Half := 0xFFFF#16
  /-- how many gaps a ring pattern has (R268, R282) -/
  nGaps : Nat := 3
  /-- `RING_TIMEOUT_MS` (R9): the value `CFG.RING_TIMEOUT_MS` holds after reset; the next seven are such values too -/
  ringTimeoutMs : Half := 8000#16
  /-- `POL_DELAY_MS` (R9) -/
  polDelayMs : Half := 600#16
  /-- `GUARD_MS` (R9) -/
  guardMs : Half := 0#16
  /-- `CID_TIMEOUT_MS` (R9) -/
  cidTimeoutMs : Half := 4000#16
  /-- `CW_REPEAT_MS` (R9) -/
  cwRepeatMs : Half := 10000#16
  /-- `CID_SUPPRESS_MS` (R9) -/
  cidSuppressMs : Half := 100#16
  /-- `CIDCW_EXPIRE_MS` (R9) -/
  cidcwExpireMs : Half := 500#16
  /-- `DTMF_THRESH` (R9) -/
  dtmfThresh : Half := 0x0200#16
  /-- `N_DRING` (R9, R282) -/
  nDring : Nat := 3
  /-- `N_SLAVES` (R9, R230) -/
  nSlaves : Nat := 4
  /-- `NUM_MAX` (R9, R71) -/
  numMax : Nat := 16
  /-- `NAME_MAX` (R9, R71) -/
  nameMax : Nat := 16
  /-- `SPILL_BYTES` (R9, R70) -/
  spillBytes : Nat := 32768
  /-- `DIAL_MAX` (R9, R70) -/
  dialMax : Nat := 64
  /-- the parameters of the codec -/
  codec : CodecParams := {}
  deriving DecidableEq, Repr

/-- `ticks(ms) = floor(ms / TICK_MS)` (R12). -/
def Params.ticks (p : Params) (ms : Nat) : Nat := ms / p.tickMs

/-- The bits of the longest name/number message, framed (R305, R308): type, length, two parameters, checksum. -/
def Params.longestMessage (p : Params) : Nat := 10 * (7 + p.numMax + p.nameMax)

/-- The length in samples of the longest spill an instance can make (R320). -/
def Params.longestSpill (p : Params) : Nat :=
  max (p.codec.bitStart (p.codec.seizureBits + p.codec.preMarkBits + p.longestMessage + p.codec.postMarkBits))
    (max (p.codec.casLongSamples + p.codec.bitStart (p.codec.preMarkCwBits + p.longestMessage + p.codec.postMarkBits))
      (max (p.codec.casLongSamples + (p.numMax + 2) * (p.codec.dtmfOnSamples + p.codec.dtmfOffSamples))
        (p.codec.bitStart (p.codec.seizureBits + p.codec.preMarkBits + 60 + p.codec.postMarkBits))))

/-- The choices of the parameters for which the register and buffer map of the spec has room (DESIGN CHOICE,
notes/assumptions/8.md): R37 numbers four slaves, R112 three patterns of three gaps, R71 gives each field 16 bytes, lengths
have 16 bits, the digit counts, `SETTLE_CNT` and `HKCNT` 8, a tick lasts some time, and every spill fits (R251: "a model may
assume `len(samples) <= SPILL_BYTES`"). -/
abbrev Params.ok (p : Params) : Prop :=
  p.codec.ok ∧ p.nDring ≤ 3 ∧ p.nSlaves ≤ slaveSlots ∧ p.numMax ≤ 16 ∧ p.nameMax ≤ 16 ∧ p.spillBytes < 65536 ∧
  p.dialMax < 256 ∧ p.longestSpill ≤ p.spillBytes ∧ 0 < p.tickMs ∧ p.ticks p.dtmfSettleMs < 256 ∧
  p.ticks p.monitorTimeoutMs < 256 ∧ 0 < p.nGaps ∧ p.nGaps ≤ gapSlots

/-- The configuration functions of R318 with the laws R318 states of them, for one choice of the codec parameters. Nothing
else is known of them. -/
structure Waveforms (p : CodecParams) where
  synthFsk : FskStd → Law → List Bool → List Byte
  demodFsk : FskStd → Law → List Byte → List Bool
  tone : Law → List Nat → Nat → List Byte
  frameEnergy : Law → List Byte → Half
  synth_length : ∀ std law bits, (synthFsk std law bits).length = p.bitStart bits.length
  /-- law L1 -/
  demod_synth : p.ok → ∀ std law (b : List Bool) (n : Nat), n < p.frameSamples →
    (∃ b', b = b' ++ List.replicate 10 true) →
    demodFsk std law (synthFsk std law b ++ List.replicate n (p.silence law)) = b
  /-- law L2 -/
  demod_mono : ∀ std law s₁ s₂, s₁ <+: s₂ → demodFsk std law s₁ <+: demodFsk std law s₂
  tone_length : ∀ law freqs n, (tone law freqs n).length = n
  energy_silence : ∀ law, frameEnergy law (List.replicate p.frameSamples (p.silence law)) = 0#16

/-! ### The instance R318 itself names, one byte per sample holding the bit value

The byte of a 0 is the byte after the silence byte, that of a 1 the next one, so that silence is no bit. It shows that the
laws can be met; no statement rests on it. -/

/-- The samples of a bit list from bit number `k` on, `lo` for a 0 and `hi` for a 1 (R303). -/
def refSynth (p : CodecParams) (lo hi : Byte) : Nat → List Bool → List Byte
  | _, [] => []
  | k, b :: bs =>
    List.replicate (p.bitStart (k + 1) - p.bitStart k) (if b then hi else lo) ++ refSynth p lo hi (k + 1) bs

/-- Reads one bit at each bit's first sample; `wait` samples of the present bit are still to be skipped; any byte but `lo`
and `hi` ends the signal. -/
def refDemod (p : CodecParams) (lo hi : Byte) : Nat → Nat → List Byte → List Bool
  | _, _, [] => []
  | k, 0, x :: xs =>
    if x = lo ∨ x = hi then (x = hi : Bool) :: refDemod p lo hi (k + 1) (p.bitStart (k + 1) - p.bitStart k - 1) xs else []
  | k, w + 1, x :: xs => if x = lo ∨ x = hi then refDemod p lo hi k w xs else []

theorem bitStart_le (p : CodecParams) (k : Nat) : p.bitStart k ≤ p.bitStart (k + 1) := by
  unfold CodecParams.bitStart
  exact Nat.div_le_div_right (by rw [Nat.mul_succ]; omega)

theorem bitStart_mono (p : CodecParams) (k n : Nat) : p.bitStart k ≤ p.bitStart (k + n) := by
  induction n with
  | zero => exact Nat.le_refl _
  | succ n ih => exact Nat.le_trans ih (bitStart_le p (k + n))

theorem bitStart_lt {p : CodecParams} (h : p.ok) (k : Nat) : p.bitStart k < p.bitStart (k + 1) := by
  obtain ⟨-, -, h0, h1, -⟩ := h
  unfold CodecParams.bitStart
  have e : (p.fsHz * k + (p.baud - 1) + p.baud) / p.baud = (p.fsHz * k + (p.baud - 1)) / p.baud + 1 :=
    Nat.add_div_right _ h0
  have : (p.fsHz * k + (p.baud - 1) + p.baud) / p.baud ≤ (p.fsHz * (k + 1) + (p.baud - 1)) / p.baud :=
    Nat.div_le_div_right (by rw [Nat.mul_succ]; omega)
  omega

@[simp] theorem bitStart_zero (p : CodecParams) : p.bitStart 0 = 0 := by
  unfold CodecParams.bitStart
  rcases Nat.eq_zero_or_pos p.baud with h | h
  · simp [h]
  · exact Nat.div_eq_of_lt (by omega)

theorem refSynth_length (p : CodecParams) (lo hi : Byte) (k : Nat) (b : List Bool) :
    (refSynth p lo hi k b).length = p.bitStart (k + b.length) - p.bitStart k := by
  induction b generalizing k with
  | nil => simp [refSynth]
  | cons x xs ih =>
    have h1 := bitStart_le p k
    have h2 := bitStart_mono p (k + 1) xs.length
    have h3 : k + 1 + xs.length = k + (xs.length + 1) := by omega
    simp only [refSynth, List.length_append, List.length_replicate, ih, List.length_cons]
    rw [h3] at h2 ⊢
    omega

theorem refDemod_skip (p : CodecParams) (lo hi : Byte) (k w : Nat) (x : Byte) (hx : x = lo ∨ x = hi) (xs : List Byte) :
    refDemod p lo hi k w (List.replicate w x ++ xs) = refDemod p lo hi k 0 xs := by
  induction w with
  | zero => simp
  | succ w ih => simp only [List.replicate_succ, List.cons_append, refDemod, if_pos hx, ih]

theorem refDemod_bit {p : CodecParams} (h : p.ok) {lo hi : Byte} (hne : lo ≠ hi) (k : Nat) (b : Bool) (xs : List Byte) :
    refDemod p lo hi k 0 (List.replicate (p.bitStart (k + 1) - p.bitStart k) (if b then hi else lo) ++ xs) =
      b :: refDemod p lo hi (k + 1) 0 xs := by
  obtain ⟨m, hm⟩ : ∃ m, p.bitStart (k + 1) - p.bitStart k = m + 1 := ⟨p.bitStart (k + 1) - p.bitStart k - 1, by
    have := bitStart_lt h k; omega⟩
  have hx : (if b then hi else lo) = lo ∨ (if b then hi else lo) = hi := by cases b <;> simp
  rw [hm, List.replicate_succ, List.cons_append, refDemod, if_pos hx, hm, Nat.add_sub_cancel,
    refDemod_skip _ _ _ _ _ _ hx]
  cases b <;> simp [hne]

theorem refDemod_silence (p : CodecParams) {lo hi z : Byte} (h0 : z ≠ lo) (h1 : z ≠ hi) (k n : Nat) :
    refDemod p lo hi k 0 (List.replicate n z) = [] := by
  cases n with
  | zero => simp [refDemod]
  | succ n => simp [List.replicate_succ, refDemod, h0, h1]

theorem refDemod_synth {p : CodecParams} (h : p.ok) {lo hi z : Byte} (hne : lo ≠ hi) (h0 : z ≠ lo) (h1 : z ≠ hi) (k : Nat)
    (b : List Bool) (n : Nat) : refDemod p lo hi k 0 (refSynth p lo hi k b ++ List.replicate n z) = b := by
  induction b generalizing k with
  | nil => simpa [refSynth] using refDemod_silence p h0 h1 k n
  | cons x xs ih => rw [refSynth, List.append_assoc, refDemod_bit h hne, ih]

theorem refDemod_mono (p : CodecParams) (lo hi : Byte) (k w : Nat) (s t : List Byte) :
    refDemod p lo hi k w s <+: refDemod p lo hi k w (s ++ t) := by
  induction s generalizing k w with
  | nil => simp [refDemod]
  | cons x xs ih =>
    cases w with
    | zero =>
      simp only [List.cons_append, refDemod]
      split
      · exact List.cons_prefix_cons.2 ⟨rfl, ih _ _⟩
      · exact List.nil_prefix
    | succ w =>
      simp only [List.cons_append, refDemod]
      split
      · exact ih _ _
      · exact List.nil_prefix

theorem byte_ne_add_one (z : Byte) : z ≠ z + 1 := by decide +revert
theorem byte_ne_add_two (z : Byte) : z ≠ z + 2 := by decide +revert
theorem byte_add_one_ne_add_two (z : Byte) : z + 1 ≠ z + 2 := by decide +revert

/-- The laws of R318 can be met together. -/
def Waveforms.reference (p : CodecParams) : Waveforms p where
  synthFsk _ law b := refSynth p (p.silence law + 1) (p.silence law + 2) 0 b
  demodFsk _ law s := refDemod p (p.silence law + 1) (p.silence law + 2) 0 0 s
  tone _ _ n := List.replicate n 0x80#8
  frameEnergy law f := if f = List.replicate p.frameSamples (p.silence law) then 0#16 else 0x0300#16
  synth_length _ _ b := by simp [refSynth_length]
  demod_synth h _ law b n _ _ :=
    refDemod_synth h (byte_add_one_ne_add_two _) (byte_ne_add_one _) (byte_ne_add_two _) 0 b n
  demod_mono _ _ s₁ s₂ h := by
    obtain ⟨t, rfl⟩ := h
    exact refDemod_mono p _ _ 0 0 s₁ t
  tone_length _ _ _ := by simp
  energy_silence _ := by simp

/-- FREE: which lawful waveform functions this instance has. No body; nothing but the laws can be proved of them
(notes/assumptions/7.md). -/
opaque waveforms? (p : CodecParams) : Option (Waveforms p)

/-- The waveform functions of this instance: any that satisfy the laws of R318 (`waveforms?` is unknown; the other branch
only says that such functions exist). -/
def waveforms (p : CodecParams) : Waveforms p := (waveforms? p).getD (Waveforms.reference p)

/-- The answer of the Line Resource to one command (R8, R435): `ok`, or `notOk`, which is `ERR`, and `FATAL` where the
command is `WRITEFRAME`. -/
inductive Answer where
  | ok
  | notOk
  deriving DecidableEq, Repr, Inhabited

/-- One received audio frame (R73): `FRAME_SAMPLES` companded bytes, the first at address 0 of `RXBUF`. -/
abbrev Frame := List Byte

/-- FREE: the answer to the `n`-th command that finds no answer in `Env.answers` (R435: "chosen freely each time";
notes/assumptions/1.md). -/
opaque freeAnswer : Nat → Answer

/-- FREE: sample `k` of the `n`-th received frame where `Env.frames` gives none (spec/93_implementation_defined.md
section 3, contents of `RXBUF`: any value; notes/assumptions/1.md). -/
opaque freeSample : Nat → Nat → Byte

end Sys2Proof.Config
end

