-- ==== Sys2Proof/Machine/State.lean ====
section
/-! DEFINITION. The state of one Line instance (spec/10_state.md R20), as plain data: the line registers, the three
subchannel banks, the conference, Caller-ID, MWI and error registers, the configuration registers (spec/30_encoding.md R112)
and the buffer memories (spec/20_memory.md R70); beside them the parameters of the
instance and `Env`, the block's inputs and outputs, which are the model's own fields. Field updates, `State.reset`, `Fault` and `Refusal`. -/

namespace Sys2Proof.Machine

open Sys2Proof.Config (Law FskStd Answer Frame)

/-! ### Names of values -/

/-- `ST` (R22): codes 0 to 5; 6 and 7 are never written, so they are no values of the type. -/
inductive CallState where
  | idle | offered | active | onHold | threeWayDialing | releasing
  deriving DecidableEq, Repr

/-- `CALLDIR` (R21): codes 0 to 3. -/
inductive CallDir where
  | none | inbound | outRing | outDial
  deriving DecidableEq, Repr

/-- `TONE` (R23): codes 0 to 7. -/
inductive Tone where
  | none | ringback | busy | congestion | dialtone | dialrecall | stutter | info
  deriving DecidableEq, Repr

/-- The three legs (R25): 0 Real, 1 CallWaiting, 2 ThreeWay. -/
inductive Leg where
  | r | cw | tw
  deriving DecidableEq, Repr

/-- `SPILL_KIND` (R31): codes 0 to 3. -/
inductive SpillKind where
  | none | cid | cwcid | mwi
  deriving DecidableEq, Repr

/-- `CIDRX_ST` (R32): codes 0 to 5. -/
inductive CidRxState where
  | off | settle | decoding | done | fail | waitDring
  deriving DecidableEq, Repr

/-- `MWI_ST` (R33): codes 0 to 6. -/
inductive MwiState where
  | null | sendAlert | alertWait | pause | sendSpill | cleanup | done
  deriving DecidableEq, Repr

/-- A membership descriptor, the 14 bits `{0, KIND[2:0], TALK, LISTEN, NUM[7:0]}` (R28). -/
abbrev Descriptor := BitVec 14

/-- A resource handle `H0..H2` (R15, R192). -/
abbrev Handle := Fin 3

/-! ### Registers -/

/-- The line register file (R21). -/
structure LineRegs where
  /-- `ST`, 3 bits -/
  st : CallState
  /-- `HOOK` -/
  hook : Bool
  /-- `RINGING` -/
  ringing : Bool
  /-- `POL` -/
  pol : Bool
  /-- `CALLDIR`, 2 bits -/
  calldir : CallDir
  /-- `INALARM` -/
  inalarm : Bool
  /-- `PRERING` -/
  prering : Bool
  /-- `RINGT` -/
  ringt : Half
  /-- `NOW` -/
  now : Word
  /-- `FLASH_T` -/
  flashT : Word
  /-- `FLASH_V` -/
  flashV : Bool
  /-- `ANSWER_T` -/
  answerT : Word
  /-- `ANSWERED` -/
  answered : Bool
  /-- `GUARD_UNTIL` -/
  guardUntil : Word
  /-- `DIAL_PENDING` -/
  dialPending : Bool
  /-- `DIALING` -/
  dialing : Bool
  /-- `DIALLEN` -/
  diallen : Byte
  /-- `TONE`, 3 bits -/
  tone : Tone
  /-- `CWREPEAT` -/
  cwrepeat : Half
  /-- `POSTWIN` -/
  postwin : Half
  /-- `HKCNT` -/
  hkcnt : Byte
  /-- `CURLEG`, 2 bits: `none` is code 3 -/
  curleg : Option Leg
  /-- `CONFIGURED` -/
  configured : Bool
  deriving DecidableEq, Repr

/-- One subchannel bank (R25). -/
structure Bank where
  /-- `ALLOC` -/
  alloc : Bool
  /-- `RES`, 2 bits -/
  res : Handle
  /-- `OWNED` -/
  owned : Bool
  /-- `OWNER` -/
  owner : Byte
  /-- `IN3WAY` -/
  in3way : Bool
  /-- `LINEAR` -/
  linear : Bool
  /-- `PEND` (R27) -/
  pend : BitVec 7
  /-- `CUR` (R28) -/
  cur : Descriptor
  deriving DecidableEq, Repr

/-- The three banks (R25). -/
structure Banks where
  real : Bank
  cw : Bank
  tw : Bank
  deriving DecidableEq, Repr

/-- One slave entry (R30). -/
structure Slave where
  /-- `SLAVE[i].ID` -/
  id : Byte
  /-- `SLAVE[i].LAW` -/
  law : Law
  /-- `SLAVE[i].CUR` -/
  cur : Descriptor
  deriving DecidableEq, Repr

/-- The conference registers (R30). -/
structure ConfRegs where
  /-- `CONFNO_V` -/
  confnoV : Bool
  /-- `CONFNO` -/
  confno : Byte
  /-- `INCONF` -/
  inconf : Bool
  /-- `NSLAVES` -/
  nslaves : BitVec 3
  /-- `SLAVE[0..3]` -/
  slaves : Vector Slave Config.slaveSlots
  /-- `MASTER_V` -/
  masterV : Bool
  /-- `MASTER_ID` -/
  masterId : Byte
  /-- `MASTER_NATIVE` -/
  masterNative : Bool
  /-- `MASTER_CONFNO_V` -/
  masterConfnoV : Bool
  /-- `MASTER_CONFNO` -/
  masterConfno : Byte
  /-- `CONF_SUSP` -/
  confSusp : Bool
  /-- `SAVECONF` -/
  saveconf : Descriptor
  deriving DecidableEq, Repr

/-- The Caller-ID transmit registers (R31). -/
structure SpillRegs where
  /-- `SPILL_KIND`, 2 bits -/
  kind : SpillKind
  /-- `SPILL_LEN` -/
  len : Half
  /-- `SPILL_RD` -/
  rd : Half
  /-- `SPILL_GO` -/
  go : Bool
  /-- `LIN_SAVED` -/
  linSaved : Bool
  deriving DecidableEq, Repr

/-- The Caller-ID receive registers (R32). -/
structure CidRxRegs where
  /-- `CIDRX_ST`, 3 bits -/
  st : CidRxState
  /-- `CIDRX_TO` -/
  timeout : Half
  /-- `SETTLE_CNT` -/
  settle : Byte
  /-- `RXLEN` -/
  rxlen : Half
  /-- `DTMFLEN` -/
  dtmflen : Byte
  /-- `DTMF_OPEN` -/
  dtmfOpen : Bool
  /-- `CID_VALID` -/
  cidValid : Bool
  /-- `RINGCNT` -/
  ringcnt : Byte
  /-- `LASTRING_T` -/
  lastringT : Word
  /-- `NGAP` -/
  ngap : BitVec 2
  /-- `GAP[0..2]` -/
  gap : Vector Half Config.gapSlots
  /-- `DRING_ON` -/
  dringOn : Bool
  /-- `DRING_DONE` -/
  dringDone : Bool
  /-- `CTX` -/
  ctx : Byte
  /-- `RESULT_SENT` -/
  resultSent : Bool
  deriving DecidableEq, Repr

/-- The MWI registers (R33). -/
structure MwiRegs where
  /-- `MWI_ST`, 3 bits -/
  st : MwiState
  /-- `MWI_DEADLINE` -/
  deadline : Word
  /-- `MWI_PENDING` -/
  pending : Bool
  /-- `MWI_MSGS` -/
  msgs : Bool
  deriving DecidableEq, Repr

/-- The error registers (R34). -/
structure ErrRegs where
  /-- `LASTERR` -/
  lasterr : Byte
  /-- `LASTERR_CLASS` -/
  lasterrClass : BitVec 3
  /-- `ERRCNT` -/
  errcnt : Half
  deriving DecidableEq, Repr

/-- How many configuration registers exist: 0x00..0x1C (R112). -/
abbrev cfgCount : Nat := 29

/-- The configuration registers 0x00..0x1C (R112). -/
abbrev CfgRegs := Vector Half cfgCount

/-! ### Memory -/

/-- The buffer memories (R70) as one list of (key, byte); the key of byte `a` of space number `n` is `n * 65536 + a`. A key
that is not listed reads as `Memory.unlisted`. -/
abbrev Memory := List Host.Cell

/-- What a byte that is not listed reads as: "Reset leaves every byte of every buffer space zero" (R72). -/
def Memory.unlisted : Byte := 0#8

/-- The canonical form: keys strictly rising, no entry equal to what an unlisted key reads as. -/
abbrev Memory.wf (m : Memory) : Prop :=
  m.Pairwise (fun c d => c.1 < d.1) ∧ ∀ c ∈ m, c.2 ≠ Memory.unlisted

/-! ### The environment's side (the model's own fields) -/

/-- The block's inputs that have not been taken yet and its outputs. R20: the event words and the answers are not state of
the block; a step that is a function of the state alone needs them beside it (DESIGN CHOICE, notes/assumptions/1.md). -/
structure Env where
  /-- the Line's queue of event words, in the order they were delivered (R81) -/
  events : List Word
  /-- the answers the Line Resource will give to the next commands (R8, R435); when it is empty the answer is free -/
  answers : List Answer
  /-- the frames the Line Resource will put into `RXBUF` before the next ticks with `RXVALID` (R73); a sample that no frame
  gives is free -/
  frames : List Frame
  /-- how many free answers have been drawn -/
  answersDrawn : Nat
  /-- how many frames have been received -/
  framesDrawn : Nat
  /-- every action word emitted so far, oldest first (R8, R83) -/
  out : List ActionWord
  deriving DecidableEq, Repr

/-- The state of one Line instance (R20), with its environment's side and its parameters. -/
structure State where
  /-- which instance of the block this is: the parameters of R9, which no step writes (the model's own field,
  notes/assumptions/8.md) -/
  par : Config.Params
  line : LineRegs
  banks : Banks
  conf : ConfRegs
  tx : SpillRegs
  rx : CidRxRegs
  mwi : MwiRegs
  err : ErrRegs
  cfg : CfgRegs
  mem : Memory
  env : Env
  deriving DecidableEq, Repr

/-! ### Updates of one component -/

/-- The bank of a leg. -/
def Banks.get (b : Banks) : Leg → Bank
  | .r => b.real
  | .cw => b.cw
  | .tw => b.tw

/-- The banks with one leg's bank updated. -/
def Banks.upd (b : Banks) (x : Leg) (f : Bank → Bank) : Banks :=
  match x with
  | .r => { b with real := f b.real }
  | .cw => { b with cw := f b.cw }
  | .tw => { b with tw := f b.tw }

namespace State

def updLine (f : LineRegs → LineRegs) (s : State) : State := { s with line := f s.line }
def updBanks (f : Banks → Banks) (s : State) : State := { s with banks := f s.banks }
def updConf (f : ConfRegs → ConfRegs) (s : State) : State := { s with conf := f s.conf }
def updTx (f : SpillRegs → SpillRegs) (s : State) : State := { s with tx := f s.tx }
def updRx (f : CidRxRegs → CidRxRegs) (s : State) : State := { s with rx := f s.rx }
def updMwi (f : MwiRegs → MwiRegs) (s : State) : State := { s with mwi := f s.mwi }
def updErr (f : ErrRegs → ErrRegs) (s : State) : State := { s with err := f s.err }
def updCfg (f : CfgRegs → CfgRegs) (s : State) : State := { s with cfg := f s.cfg }
def updMem (f : Memory → Memory) (s : State) : State := { s with mem := f s.mem }
def updEnv (f : Env → Env) (s : State) : State := { s with env := f s.env }

/-- The bank of a leg. -/
def bank (s : State) (x : Leg) : Bank := s.banks.get x

/-- The state with one leg's bank updated. -/
def updBank (x : Leg) (f : Bank → Bank) (s : State) : State := s.updBanks (fun b => b.upd x f)

end State

/-! ### Reset -/

/-- A bank with nothing in it (R25, the column "reset CW, TW"). -/
def Bank.empty : Bank :=
  { alloc := false, res := 0, owned := false, owner := 0, in3way := false, linear := false, pend := 0, cur := 0 }

/-- R21, column "reset"; `HKCNT` is `ticks(MONITOR_TIMEOUT_MS)`, 50 with the defaults (R21, R369; DEDUCED for other
instances, notes/assumptions/8.md). -/
def LineRegs.resetOf (p : Config.Params) : LineRegs :=
  { st := .idle, hook := false, ringing := false, pol := false, calldir := .none, inalarm := false, prering := false,
    ringt := 0, now := 0, flashT := 0, flashV := false, answerT := 0, answered := false, guardUntil := 0,
    dialPending := false, dialing := false, diallen := 0, tone := .none, cwrepeat := 0, postwin := 0,
    hkcnt := BitVec.ofNat 8 (p.ticks p.monitorTimeoutMs),
    curleg := none, configured := false }

/-- A slave entry that is not in use (R30). -/
def Slave.empty : Slave := { id := 0, law := .mu, cur := 0 }

/-- R30, column "reset". -/
def ConfRegs.reset : ConfRegs :=
  { confnoV := false, confno := 0, inconf := false, nslaves := 0,
    slaves := #v[Slave.empty, Slave.empty, Slave.empty, Slave.empty], masterV := false, masterId := 0,
    masterNative := false, masterConfnoV := false, masterConfno := 0, confSusp := false, saveconf := 0 }

/-- R31, column "reset". -/
def SpillRegs.reset : SpillRegs := { kind := .none, len := 0, rd := 0, go := false, linSaved := false }

/-- R32, column "reset". -/
def CidRxRegs.reset : CidRxRegs :=
  { st := .off, timeout := 0, settle := 0, rxlen := 0, dtmflen := 0, dtmfOpen := false, cidValid := false, ringcnt := 0,
    lastringT := 0, ngap := 0, gap := #v[0, 0, 0], dringOn := false, dringDone := false, ctx := 0xFF, resultSent := false }

/-- R33, column "reset". -/
def MwiRegs.reset : MwiRegs := { st := .null, deadline := 0, pending := false, msgs := false }

/-- R34: the error registers are 0 at reset. -/
def ErrRegs.reset : ErrRegs := { lasterr := 0, lasterrClass := 0, errcnt := 0 }

/-- R112, column "reset": 0, or the default R9 names. -/
def CfgRegs.resetOf (p : Config.Params) : CfgRegs :=
  #v[0, 0, 0, 0, p.ringTimeoutMs, p.polDelayMs, p.guardMs, p.cidTimeoutMs, p.cwRepeatMs, p.cidSuppressMs, p.cidcwExpireMs,
     p.dtmfThresh, 0, 0, 0, 0, 0, 0, 0, 0, 0, 0, 0, 0, 0, 0, 0, 0, 0]

/-- The environment's side before anything has been delivered (DESIGN CHOICE, notes/assumptions/1.md). -/
def Env.reset : Env :=
  { events := [], answers := [], frames := [], answersDrawn := 0, framesDrawn := 0, out := [] }

/-- The state after reset of the instance with the given parameters (spec/70_reset_and_hazards.md R450, R451): Real is bound
to handle `H0`. -/
def State.resetOf (p : Config.Params) : State :=
  { par := p
    line := .resetOf p
    banks := { real := { Bank.empty with alloc := true }, cw := .empty, tw := .empty }
    conf := .reset
    tx := .reset
    rx := .reset
    mwi := .reset
    err := .reset
    cfg := .resetOf p
    mem := []
    env := .reset }

/-- The state after reset of the instance whose parameters have the spec's defaults (R9). -/
def State.reset : State := State.resetOf {}

/-! ### Stops -/

/-- No step of this block stops with a fault, so the type has no constructor: every error of the spec is an `ERRIND` with a
next state (spec/60_exceptions.md R412), and "the step is a total deterministic function" (spec/00_scope.md R8). -/
inductive Fault where
  deriving DecidableEq, Repr

/-- Why a word has no meaning in the model. -/
inductive Refusal where
  /-- raised by `exec` for a word without a meaning in the model; no arm answers with it now. Safe: the model stops. -/
  | notModelled (mnemonic : String)
  deriving DecidableEq, Repr

end Sys2Proof.Machine
end

