-- ==== Sys2Proof/Machine/Operands.lean ====
section
/-! DEFINITION. The operand forms (spec/30_encoding.md R102), the codes of the named register values (spec/10_state.md), the
membership descriptors (R28), the buffer spaces (spec/20_memory.md R70) and the reads of the configuration registers
(spec/30_encoding.md R112 to R114). -/

namespace Sys2Proof.Machine

open Sys2Proof.Config (Law FskStd Params)

/-! ### Operands -/

/-- A leg operand (R102): 0 `R`, 1 `CW`, 2 `TW`; 3 is illegal. -/
def legOf (leg : BitVec 2) : Option Leg :=
  match leg.toNat with
  | 0 => some .r
  | 1 => some .cw
  | 2 => some .tw
  | _ => none

/-- `'0'..'9'` (R102, R160). -/
def isDecimal (d : Byte) : Bool := 0x30#8 ≤ d && d ≤ 0x39#8

/-- `'0'..'9', '*', '#', 'A', 'B', 'C', 'D'` (R102, R161). -/
def isDtmf (d : Byte) : Bool := isDecimal d || d == 0x2A#8 || d == 0x23#8 || (0x41#8 ≤ d && d ≤ 0x44#8)

/-- A law bit (R104): 0 µ-law, 1 A-law. -/
def lawOf (b : Bool) : Law := if b then .a else .mu

/-- The tone of `INDICATE`'s condition (R399): 0 stop, 1 RINGING, 2 BUSY, 3 CONGESTION. -/
def indicatedTone (cond : BitVec 2) : Tone :=
  match cond.toNat with
  | 1 => .ringback
  | 2 => .busy
  | 3 => .congestion
  | _ => .none

/-! ### Codes of named values -/

/-- `ST` (R22). -/
def CallState.code : CallState → BitVec 3
  | .idle => 0
  | .offered => 1
  | .active => 2
  | .onHold => 3
  | .threeWayDialing => 4
  | .releasing => 5

/-- `CALLDIR` (R21). -/
def CallDir.code : CallDir → BitVec 2
  | .none => 0
  | .inbound => 1
  | .outRing => 2
  | .outDial => 3

/-- `TONE` (R23). -/
def Tone.code : Tone → BitVec 3
  | .none => 0
  | .ringback => 1
  | .busy => 2
  | .congestion => 3
  | .dialtone => 4
  | .dialrecall => 5
  | .stutter => 6
  | .info => 7

/-- The number of a leg (R25). -/
def Leg.code : Leg → BitVec 2
  | .r => 0
  | .cw => 1
  | .tw => 2

/-- `CURLEG` (R21): 3 is none. -/
def curlegCode : Option Leg → BitVec 2
  | some x => x.code
  | none => 3

/-- `SPILL_KIND` (R31). -/
def SpillKind.code : SpillKind → BitVec 2
  | .none => 0
  | .cid => 1
  | .cwcid => 2
  | .mwi => 3

/-- `CIDRX_ST` (R32). -/
def CidRxState.code : CidRxState → BitVec 3
  | .off => 0
  | .settle => 1
  | .decoding => 2
  | .done => 3
  | .fail => 4
  | .waitDring => 5

/-- `MWI_ST` (R33). -/
def MwiState.code : MwiState → BitVec 3
  | .null => 0
  | .sendAlert => 1
  | .alertWait => 2
  | .pause => 3
  | .sendSpill => 4
  | .cleanup => 5
  | .done => 6

/-- The law bit of R30 and R112. -/
def lawBit : Law → Bool
  | .mu => false
  | .a => true

/-! ### Membership descriptors (R28) -/

/-- NONE: not in any conference. -/
def descNone : Descriptor := 0

/-- `CONF(n, TALK 1, LISTEN 1)`: `{0, KIND = 1, 1, 1, NUM}`. -/
def descConf (n : Byte) : Descriptor := 0#1 ++ 1#3 ++ 1#1 ++ 1#1 ++ n

/-- `DIGITALMON(n)`: `{0, KIND = 2, 0, 0, NUM}`. -/
def descMonitor (n : Byte) : Descriptor := 0#1 ++ 2#3 ++ 0#1 ++ 0#1 ++ n

/-! ### Buffer spaces (R70) -/

/-- The seven buffer spaces. -/
inductive Space where
  | cidmsg | dialbuf | spill | rxbuf | rxacc | dtmfacc | cidout
  deriving DecidableEq, Repr

/-- The number of a space (R70). -/
def Space.id : Space → Nat
  | .cidmsg => 0
  | .dialbuf => 1
  | .spill => 2
  | .rxbuf => 3
  | .rxacc => 4
  | .dtmfacc => 5
  | .cidout => 6

/-- The size of a space in bytes (R70). -/
def Space.size (p : Params) : Space → Nat
  | .cidmsg => 64
  | .dialbuf => p.dialMax
  | .spill => p.spillBytes
  | .rxbuf => p.codec.frameSamples
  | .rxacc => p.spillBytes
  | .dtmfacc => 32
  | .cidout => 64

/-- A space operand (R102); 7 is no space (R385). -/
def spaceOf (space : BitVec 3) : Option Space :=
  match space.toNat with
  | 0 => some .cidmsg
  | 1 => some .dialbuf
  | 2 => some .spill
  | 3 => some .rxbuf
  | 4 => some .rxacc
  | 5 => some .dtmfacc
  | 6 => some .cidout
  | _ => none

/-- The spaces the host may write (R383, R431). -/
def Space.hostWritable : Space → Bool
  | .cidmsg => true
  | .dialbuf => true
  | _ => false

/-- The memory key of byte `a` of a space. -/
def Space.key (sp : Space) (a : Nat) : Nat := sp.id * 65536 + a

/-! ### Time (R12) -/

/-- `ticks(ms)` of a 16-bit configuration value (R12); a quotient of a 16-bit value fits 16 bits. -/
def ticksOf (p : Params) (ms : Half) : Half := BitVec.ofNat 16 (p.ticks ms.toNat)

/-- `since(t)` at time `now` (R12). For a stamp older than 2^31 ms, which R466 says "compares wrongly", R12's formula is kept:
it gives the true age below 2^32 ms (DEDUCED, notes/assumptions/28.md). -/
def sinceAt (now t : Word) : Nat := (now - t).toNat

/-- `reached(d)` at time `now` (R12). -/
def reachedAt (now d : Word) : Bool := (now - d).toNat < 2 ^ 31

/-- A down-counter's decrement: it stops at zero (R13). -/
def countDown {w : Nat} (v : BitVec w) : BitVec w := if v = 0 then 0 else v - 1

/-- An up-counter's increment that saturates at all ones (R13, R32). -/
def countUp {w : Nat} (v : BitVec w) : BitVec w := if v = BitVec.allOnes w then v else v + 1

/-! ### Configuration registers (R112) -/

/-- `REG16` of a configuration register: numbers 0x1D..0x3F are reserved and read 0. -/
def cfgRead (regs : CfgRegs) (n : Nat) : Half := regs[n]?.getD 0

/-- The signaling family (R113). -/
inductive Family where
  | loop | trunk | radio
  deriving DecidableEq, Repr

/-- `family(SIG)` (R113): 0..5 LOOP, 6..9 TRUNK, 10 RADIO; 11..15 are refused by `CFGWR` (DESIGN CHOICE,
notes/assumptions/10.md). -/
def familyOf (c : CfgRegs) : Family :=
  let sig := slice (cfgRead c 0x00) 0 4
  if sig ≤ 5#4 then .loop else if sig ≤ 9#4 then .trunk else .radio

/-- `CID_SIG` (R112). -/
inductive CidSig where
  | bell202 | v23 | dtmf
  deriving DecidableEq, Repr

/-- `CIDCFG[1:0]` (R112); 3 is refused by `CFGWR` (DESIGN CHOICE, notes/assumptions/10.md). -/
def cidSigOf (c : CfgRegs) : CidSig :=
  match (slice (cfgRead c 0x02) 0 2).toNat with
  | 0 => .bell202
  | 1 => .v23
  | _ => .dtmf

/-- `CID_START` (R112). -/
inductive CidStart where
  | ring | polarity | dtmfNoAlert
  deriving DecidableEq, Repr

/-- `CIDCFG[3:2]` (R112); 3 is refused by `CFGWR` (DESIGN CHOICE, notes/assumptions/10.md). -/
def cidStartOf (c : CfgRegs) : CidStart :=
  match (slice (cfgRead c 0x02) 2 2).toNat with
  | 0 => .ring
  | 1 => .polarity
  | _ => .dtmfNoAlert

/-- `LAW[0]` (R112). -/
def cfgLaw (c : CfgRegs) : Law := lawOf ((cfgRead c 0x03).getLsbD 0)
/-- `RING_TIMEOUT_MS` (R112). -/
def cfgRingTimeoutMs (c : CfgRegs) : Half := cfgRead c 0x04
/-- `POL_DELAY_MS` (R112). -/
def cfgPolDelayMs (c : CfgRegs) : Half := cfgRead c 0x05
/-- `GUARD_MS` (R112). -/
def cfgGuardMs (c : CfgRegs) : Half := cfgRead c 0x06
/-- `CID_TIMEOUT_MS` as it acts: "values above 4080 behave as 4080" (R112; DEDUCED, notes/assumptions/9.md). -/
def cfgCidTimeoutMs (c : CfgRegs) : Half :=
  if (cfgRead c 0x07).toNat ≤ Config.cidTimeoutMaxMs then cfgRead c 0x07 else BitVec.ofNat 16 Config.cidTimeoutMaxMs
/-- `CW_REPEAT_MS` (R112). -/
def cfgCwRepeatMs (c : CfgRegs) : Half := cfgRead c 0x08
/-- `CID_SUPPRESS_MS` (R112). -/
def cfgCidSuppressMs (c : CfgRegs) : Half := cfgRead c 0x09
/-- `CIDCW_EXPIRE_MS` (R112). -/
def cfgCidcwExpireMs (c : CfgRegs) : Half := cfgRead c 0x0A
/-- `DTMF_THRESH` (R112). -/
def cfgDtmfThresh (c : CfgRegs) : Half := cfgRead c 0x0B
/-- `RXGAIN` (R112). -/
def cfgRxGain (c : CfgRegs) : Byte := slice (cfgRead c 0x0C) 0 8
/-- `TXGAIN` (R112). -/
def cfgTxGain (c : CfgRegs) : Byte := slice (cfgRead c 0x0C) 8 8
/-- `DRC` (R112). -/
def cfgDrc (c : CfgRegs) : Byte := slice (cfgRead c 0x0D) 0 8
/-- `EC_TAPS` (R112). -/
def cfgEcTaps (c : CfgRegs) : Half := cfgRead c 0x0E
/-- `LINE_ID` (R112). -/
def cfgLineId (c : CfgRegs) : Byte := slice (cfgRead c 0x0F) 0 8
/-- `DRING[p].R[i]` (R112). -/
def cfgDringTarget (c : CfgRegs) (p i : Nat) : Half := cfgRead c (0x10 + 4 * p + i)
/-- `DRING[p].RANGE` (R112). -/
def cfgDringRange (c : CfgRegs) (p : Nat) : Half := cfgRead c (0x13 + 4 * p)
/-- `DRING_NPAT` (R112), the register; how many patterns are in use is `dringPatterns`. -/
def cfgDringNpat (c : CfgRegs) : Nat := (slice (cfgRead c 0x1C) 0 2).toNat

/-- The number of patterns in use (R112, R282): `DRING_NPAT`, and never more than the instance has (DESIGN CHOICE,
notes/assumptions/8.md). -/
def dringPatterns (p : Params) (c : CfgRegs) : Nat := min (cfgDringNpat c) p.nDring

/-- `implemented_mask(reg)` (R380). -/
def implementedMask (reg : Byte) : Half :=
  match reg.toNat with
  | 0x00 => 0x000F
  | 0x01 => 0x1FFF
  | 0x02 => 0x000F
  | 0x03 => 0x0001
  | 0x0D => 0x00FF
  | 0x0F => 0x00FF
  | 0x1C => 0x0003
  | _ => 0xFFFF

end Sys2Proof.Machine
end

