-- ==== Sys2Proof/Machine/Codec.lean ====
section
/-! DEFINITION. The tone/FSK codec (spec/44_fsk_codec.md): pure functions of the codec parameters `p` and the abstract
waveform functions of R318; no register belongs to it (R300). -/

namespace Sys2Proof.Machine

open Sys2Proof.Config (Law FskStd CodecParams waveforms)

/-! ### Bits -/

/-- `FRAME(b)` (R305): start bit 0, eight data bits least significant first, stop bit 1. -/
def frameByte (b : Byte) : List Bool :=
  [false, b.getLsbD 0, b.getLsbD 1, b.getLsbD 2, b.getLsbD 3, b.getLsbD 4, b.getLsbD 5, b.getLsbD 6, b.getLsbD 7, true]

/-- `FRAME(m)` of a byte list (R305). -/
def frameBytes (m : List Byte) : List Bool := m.flatMap frameByte

/-- `MARKS(n)` (R306). -/
def marks (n : Nat) : List Bool := List.replicate n true

/-- `n` alternating bits starting with 0 (R306). -/
def alternating (n : Nat) : List Bool := (List.range n).map fun i => i % 2 == 1

/-- `SEIZURE(kind)` (R306): none in the call-waiting variant. R306 gives no preamble for the kind NONE, which no rule sends;
here it has that of CID (DESIGN CHOICE, notes/assumptions/26.md). -/
def seizure (p : CodecParams) : SpillKind → List Bool
  | .cwcid => []
  | .none => alternating p.seizureBits
  | .cid => alternating p.seizureBits
  | .mwi => alternating p.seizureBits

/-- `PRE_MARK(kind)` (R306); for the kind NONE that of CID (DESIGN CHOICE, notes/assumptions/26.md). -/
def preMark (p : CodecParams) : SpillKind → Nat
  | .cwcid => p.preMarkCwBits
  | .none => p.preMarkBits
  | .cid => p.preMarkBits
  | .mwi => p.preMarkBits

/-- `FSK_BITS(kind, m)` (R306). -/
def fskBits (p : CodecParams) (kind : SpillKind) (m : List Byte) : List Bool :=
  seizure p kind ++ marks (preMark p kind) ++ frameBytes m ++ marks p.postMarkBits

/-! ### Messages -/

/-- The sum of bytes modulo 256. -/
def byteSum (m : List Byte) : Byte := m.foldl (· + ·) 0

/-- `m` with the checksum that makes all bytes sum to 0 modulo 256 (R308). -/
def withChecksum (m : List Byte) : List Byte := m ++ [0 - byteSum m]

/-- One parameter of a message; an empty field is omitted (R308). -/
def mdmfParam (code : Byte) (v : List Byte) : List Byte :=
  if v.isEmpty then [] else code :: BitVec.ofNat 8 v.length :: v

/-- `MDMF(num, name)` (R308). -/
def mdmf (p : CodecParams) (num name : List Byte) : List Byte :=
  let body := mdmfParam p.paramNumber num ++ mdmfParam p.paramName name
  withChecksum (p.msgTypeCid :: BitVec.ofNat 8 body.length :: body)

/-- `MWIMSG(waiting)` (R309). -/
def mwiMsg (p : CodecParams) (waiting : Bool) : List Byte :=
  withChecksum [p.msgTypeMwi, 3, p.paramMwi, 1, if waiting then p.mwiOn else p.mwiOff]

/-! ### Tones -/

/-- The row and the column of a DTMF character, 0 to 3 (R312). A character that is no DTMF digit has no tone pair in the
spec, and R251 never sends one; here it has the pair of `'D'` (DESIGN CHOICE, notes/assumptions/25.md). -/
def dtmfKey (c : Byte) : Fin 4 × Fin 4 :=
  match c.toNat with
  | 0x31 => (0, 0)
  | 0x32 => (0, 1)
  | 0x33 => (0, 2)
  | 0x41 => (0, 3)
  | 0x34 => (1, 0)
  | 0x35 => (1, 1)
  | 0x36 => (1, 2)
  | 0x42 => (1, 3)
  | 0x37 => (2, 0)
  | 0x38 => (2, 1)
  | 0x39 => (2, 2)
  | 0x43 => (2, 3)
  | 0x2A => (3, 0)
  | 0x30 => (3, 1)
  | 0x23 => (3, 2)
  | _ => (3, 3)

/-- The row frequency of a DTMF character (R312). -/
def dtmfRow (p : CodecParams) (c : Byte) : Nat := p.dtmfRows[(dtmfKey c).1]

/-- The column frequency of a DTMF character (R312). -/
def dtmfColumn (p : CodecParams) (c : Byte) : Nat := p.dtmfColumns[(dtmfKey c).2]

/-- `dtmf_synth(law, s)` (R312): each character's tone pair, then silence. -/
def dtmfSynth (p : CodecParams) (law : Law) (s : List Byte) : List Byte :=
  s.flatMap fun c =>
    (waveforms p).tone law [dtmfRow p c, dtmfColumn p c] p.dtmfOnSamples
      ++ List.replicate p.dtmfOffSamples (p.silence law)

/-- `cas(law, CAS_SHORT_SAMPLES)` (R314): the subscriber alert tone alone. -/
def casShort (p : CodecParams) (law : Law) : List Byte := (waveforms p).tone law [p.sasHz] p.casShortSamples

/-- `cas(law, CAS_LONG_SAMPLES)` (R314): the subscriber alert tone, then the dual-tone burst. -/
def casLong (p : CodecParams) (law : Law) : List Byte :=
  (waveforms p).tone law [p.sasHz] p.casShortSamples
    ++ (waveforms p).tone law [p.casLoHz, p.casHiHz] (p.casLongSamples - p.casShortSamples)

/-! ### Receiving -/

/-- What `FSK_PARSE` answers (R316). -/
inductive FskResult where
  | more
  | error
  | bytes (m : List Byte)
  deriving DecidableEq, Repr

/-- What `cid_decode` answers (R318). -/
inductive CidDecode where
  | more
  | error
  | done (num name : List Byte)
  deriving DecidableEq, Repr

/-- The bits from the first start bit on: the first 0 after a run of at least ten 1s (R316); `ones` is the length of the
run so far. -/
def firstStart : Nat → List Bool → Option (List Bool)
  | _, [] => none
  | ones, true :: bs => firstStart (ones + 1) bs
  | ones, false :: bs => if 10 ≤ ones then some (false :: bs) else firstStart 0 bs

/-- The byte of its data bits, least significant first (R316). -/
def byteOfBits (bits : List Bool) : Byte :=
  bits.foldr (fun b acc => (acc <<< 1) ||| (if b then 1 else 0)) 0

/-- `need(bytes)` (R316): how many bytes the message still lacks. -/
def needBytes (m : List Byte) : Nat :=
  match m with
  | _ :: len :: _ => len.toNat + 3 - m.length
  | _ => 1

/-- The loop of R316, one bit at a time: `m` are the bytes read so far, `cur` the bits of the byte being read (empty:
between two bytes, where marks are skipped). The tenth bit of a byte must be the stop bit 1. -/
def fskBytes (m : List Byte) (cur : List Bool) : List Bool → FskResult
  | [] => .more
  | b :: bs =>
    if cur.isEmpty && b then fskBytes m [] bs
    else if cur.length < 9 then fskBytes m (cur ++ [b]) bs
    else if !b then .error
    else
      let m' := m ++ [byteOfBits (cur.drop 1)]
      if needBytes m' = 0 then .bytes m' else fskBytes m' [] bs

/-- `FSK_PARSE(bits)` (R316). -/
def fskParse (bits : List Bool) : FskResult :=
  match firstStart 0 bits with
  | some rest => fskBytes [] [] rest
  | none => .more

/-- The parameter loop of R317 over the body; each round takes at least two bytes, so the body's length is fuel enough. -/
def mdmfParams (p : CodecParams) : Nat → List Byte → List Byte → List Byte → CidDecode
  | _, [], num, name => .done num name
  | 0, _ :: _, _, _ => .error
  | _ + 1, [_], _, _ => .error
  | fuel + 1, code :: len :: rest, num, name =>
    if rest.length < len.toNat then .error
    else
      let v := rest.take len.toNat
      let rest' := rest.drop len.toNat
      if code = p.paramNumber then mdmfParams p fuel rest' v name
      else if code = p.paramName then mdmfParams p fuel rest' num v
      else mdmfParams p fuel rest' num name

/-- `MDMF_PARSE(bytes)` (R317). `FSK_PARSE` delivers `bytes[1] + 3` bytes; on a list that ends before its body does, where
the pseudocode reads past the end, the answer is ERROR (DESIGN CHOICE, notes/assumptions/17.md). -/
def mdmfParse (p : CodecParams) (m : List Byte) : CidDecode :=
  if byteSum m != 0 then .error
  else
    match m with
    | type :: len :: rest =>
      if type != p.msgTypeCid then .error
      else if rest.length < len.toNat then .error
      else
        let body := rest.take len.toNat
        mdmfParams p body.length body [] []
    | _ => .error

/-- The part of `cid_decode` after the demodulator (R318). -/
def cidDecodeBits (p : CodecParams) (bits : List Bool) : CidDecode :=
  match fskParse bits with
  | .more => .more
  | .error => .error
  | .bytes m => mdmfParse p m

/-- `cid_decode(std, law, samples)` (R318). -/
def cidDecode (p : CodecParams) (std : FskStd) (law : Law) (samples : List Byte) : CidDecode :=
  cidDecodeBits p ((waveforms p).demodFsk std law samples)

end Sys2Proof.Machine
end

