-- ==== Sys2Proof/Machine/Flags.lean ====
section
/-! DEFINITION. The flags (spec/10_state.md R35): the block has no arithmetic condition codes; its flags are the `PEND` bits
of a bank (R27), the feature bits of `FEAT` (spec/30_encoding.md R114) and single-bit registers. -/

namespace Sys2Proof.Machine

/-- The `PEND` bits, by name (R27). -/
inductive PendBit where
  | needRinging | needBusy | needCongestion | needAnswer | needFlash | needHold | needUnhold
  deriving DecidableEq, Repr

/-- The bit number of a notification (R27). -/
def PendBit.index : PendBit → Nat
  | .needRinging => 0
  | .needBusy => 1
  | .needCongestion => 2
  | .needAnswer => 3
  | .needFlash => 4
  | .needHold => 5
  | .needUnhold => 6

/-- The notification as a mask of `PEND`. -/
def PendBit.mask (p : PendBit) : BitVec 7 := BitVec.ofNat 7 (2 ^ p.index)

/-- `PEND.<bit> <- 1`: queues a notification for the leg's owner (R27). -/
def Bank.setPend (p : PendBit) (b : Bank) : Bank := { b with pend := b.pend ||| p.mask }

/-- The feature bits of `FEAT` (R114). -/
inductive Feature where
  | callWaiting | threeWay | cwCid | busyDetect | answerOnPol | hangupOnPol | dring | dringAfterCid | mwiSend | mwiRpas
  | cidTx | cidRx | mwiMonitor
  deriving DecidableEq, Repr

/-- The bit number of a feature (R114). -/
def Feature.index : Feature → Nat
  | .callWaiting => 0
  | .threeWay => 1
  | .cwCid => 2
  | .busyDetect => 3
  | .answerOnPol => 4
  | .hangupOnPol => 5
  | .dring => 6
  | .dringAfterCid => 7
  | .mwiSend => 8
  | .mwiRpas => 9
  | .cidTx => 10
  | .cidRx => 11
  | .mwiMonitor => 12

/-- A feature is enabled (R114). -/
def hasFeature (c : CfgRegs) (f : Feature) : Bool := (cfgRead c 0x01).getLsbD f.index

end Sys2Proof.Machine
end

