-- ==== Sys2Proof/Machine/Actions.lean ====
section
/-! DEFINITION. The action words (spec/30_encoding.md R106 to R108) and the error codes (spec/60_exceptions.md R411). -/

namespace Sys2Proof.Machine

open Sys2Proof.Config (Law)

/-- The error codes of R411. -/
inductive ErrCode where
  | lrCtrl | lrConf | lrMinor | lrOpen
  | unexpected | badEvent | notConfigured | cfgLocked | badAddr | badArg | realRelease | refused
  | conflict | slaveFull
  | fatal
  | cidFail | cidTimeout
  deriving DecidableEq, Repr

/-- The 8-bit code; the high nibble is the class (R411). -/
def ErrCode.code : ErrCode → Byte
  | .lrCtrl => 0x10
  | .lrConf => 0x11
  | .lrMinor => 0x12
  | .lrOpen => 0x13
  | .unexpected => 0x20
  | .badEvent => 0x21
  | .notConfigured => 0x22
  | .cfgLocked => 0x23
  | .badAddr => 0x24
  | .badArg => 0x25
  | .realRelease => 0x26
  | .refused => 0x27
  | .conflict => 0x30
  | .slaveFull => 0x31
  | .fatal => 0x40
  | .cidFail => 0x50
  | .cidTimeout => 0x51

/-- The taxonomy class, `e[7:4]` as the 3-bit register `LASTERR_CLASS` holds it (R34, R412). -/
def ErrCode.errClass (e : ErrCode) : BitVec 3 := slice e.code 4 3

/-- The arguments of `SETHOOK` (R107). -/
inductive HookCmd where
  | onHook | offHook | ring | ringOff | flash | wink
  deriving DecidableEq, Repr

/-- `ARG[2:0]` of `SETHOOK` (R107). -/
def HookCmd.code : HookCmd → BitVec 3
  | .onHook => 0
  | .offHook => 1
  | .ring => 2
  | .ringOff => 3
  | .flash => 4
  | .wink => 5

/-- The commands to the Line Resource (R107). -/
inductive LrCmd where
  | openLine
  | closeLine
  | setHook (c : HookCmd)
  | setLaw (law : Law)
  | setConf (d : Descriptor)
  | setLinear (b : Bool)
  | setGain (rx tx drc : Byte)
  | setEc (taps : Half) (train : Bool)
  | tonePlay (t : Tone)
  | toneStop
  | writeFrame (offset count : Half)
  | dial (count : Byte)
  deriving DecidableEq, Repr

/-- `CODE` of a command (R107). -/
def LrCmd.code : LrCmd → Byte
  | .openLine => 0x01
  | .closeLine => 0x02
  | .setHook _ => 0x03
  | .setLaw _ => 0x04
  | .setConf _ => 0x05
  | .setLinear _ => 0x06
  | .setGain _ _ _ => 0x07
  | .setEc _ _ => 0x08
  | .tonePlay _ => 0x09
  | .toneStop => 0x0A
  | .writeFrame _ _ => 0x0B
  | .dial _ => 0x0C

/-- `ARG` of a command (R107). -/
def LrCmd.arg : LrCmd → BitVec 32
  | .openLine => 0
  | .closeLine => 0
  | .setHook c => 0#29 ++ c.code
  | .setLaw law => 0#31 ++ bit (lawBit law)
  | .setConf d => 0#18 ++ d
  | .setLinear b => 0#31 ++ bit b
  | .setGain rx tx drc => 0#8 ++ drc ++ tx ++ rx
  | .setEc taps train => 0#15 ++ bit train ++ taps
  | .tonePlay t => 0#29 ++ t.code
  | .toneStop => 0
  | .writeFrame offset count => count ++ offset
  | .dial count => 0#24 ++ count

/-- The error an `ERR` to the command raises (R411): `E_LR_CTRL` for `SETHOOK`, `DIAL`, `SETLINEAR`; `E_LR_CONF` for
`SETCONF`; `E_LR_OPEN` for `OPEN`; `E_LR_MINOR` for the others. (`WRITEFRAME` is never answered `ERR`, only `FATAL`: R435.) -/
def LrCmd.error : LrCmd → ErrCode
  | .openLine => .lrOpen
  | .closeLine => .lrMinor
  | .setHook _ => .lrCtrl
  | .setLaw _ => .lrMinor
  | .setConf _ => .lrConf
  | .setLinear _ => .lrCtrl
  | .setGain _ _ _ => .lrMinor
  | .setEc _ _ => .lrMinor
  | .tonePlay _ => .lrMinor
  | .toneStop => .lrMinor
  | .writeFrame _ _ => .fatal
  | .dial _ => .lrCtrl

/-- The causes of `HANGUPIND` (R108). -/
inductive Cause where
  | fatal | onhook | ringTimeout | bounce | alarm | polarity | dropped | undo
  deriving DecidableEq, Repr

/-- `ARG[15:8]` of `HANGUPIND` (R108). -/
def Cause.code : Cause → Byte
  | .fatal => 1
  | .onhook => 2
  | .ringTimeout => 3
  | .bounce => 4
  | .alarm => 5
  | .polarity => 6
  | .dropped => 7
  | .undo => 8

/-- The indications to the host (R108). -/
inductive Ind where
  | hangup (owner : Byte) (cause : Cause)
  | spawnSetup
  | cidResult (valid : Bool) (ctx : Byte)
  | digit (d : Byte) (pulse : Bool)
  | error (e : ErrCode)
  | mwiDone (b : Bool)
  | cwRefused (tag : Byte)
  | pendVal (p : BitVec 7)
  | regVal (value : Half) (reg : Byte)
  | memVal (b : Byte)
  | callRefused (tag : Byte)
  deriving DecidableEq, Repr

/-- `CODE` of an indication (R108). -/
def Ind.code : Ind → Byte
  | .hangup _ _ => 0x01
  | .spawnSetup => 0x02
  | .cidResult _ _ => 0x03
  | .digit _ _ => 0x04
  | .error _ => 0x05
  | .mwiDone _ => 0x06
  | .cwRefused _ => 0x07
  | .pendVal _ => 0x08
  | .regVal _ _ => 0x09
  | .memVal _ => 0x0A
  | .callRefused _ => 0x0B

/-- `ARG` of an indication (R108). -/
def Ind.arg : Ind → BitVec 32
  | .hangup owner cause => 0#16 ++ cause.code ++ owner
  | .spawnSetup => 0
  | .cidResult valid ctx => 0#16 ++ ctx ++ 0#7 ++ bit valid
  | .digit d pulse => 0#23 ++ bit pulse ++ d
  | .error e => 0#21 ++ e.errClass ++ e.code
  | .mwiDone b => 0#31 ++ bit b
  | .cwRefused tag => 0#24 ++ tag
  | .pendVal p => 0#25 ++ p
  | .regVal value reg => 0#8 ++ reg ++ value
  | .memVal b => 0#24 ++ b
  | .callRefused tag => 0#24 ++ tag

/-- The format of R106: `CLASS CODE LINE H 0 ARG`. -/
def actionWord (cls : BitVec 4) (code line : Byte) (h : BitVec 4) (arg : BitVec 32) : ActionWord :=
  cls ++ code ++ line ++ h ++ 0#8 ++ arg

/-- `H = 0xF`: "the Real resource of Line `LINE`" for a command, no leg for an indication (R106). -/
def hAny : BitVec 4 := 0xF

/-- `H` of a resource handle (R106). -/
def handleField (h : Handle) : BitVec 4 := BitVec.ofNat 4 h.val

/-- `H` of a leg (R106). -/
def legField4 (x : Leg) : BitVec 4 := 0#2 ++ x.code

/-- The word of a command to the Line Resource (`CLASS = 1`, R107). -/
def lrWord (line : Byte) (h : BitVec 4) (c : LrCmd) : ActionWord := actionWord 1 c.code line h c.arg

/-- The word of an indication (`CLASS = 2`, R108). -/
def indWord (line : Byte) (h : BitVec 4) (i : Ind) : ActionWord := actionWord 2 i.code line h i.arg

end Sys2Proof.Machine
end

