-- ==== Sys2Proof/Machine/Ops.lean ====
section
/-! DEFINITION. The named operations that every rule is written with (spec/00_scope.md R11): conditional steps of a
sequential program, emitting action words, commanding the Line Resource and drawing its answer, `raise` (the whole of this
block's exception entry, spec/60_exceptions.md R412; there is no return from one), the buffer memories, and the two
procedures every file uses (`stopTone`, `goto`, spec/40_hook_events.md R133). -/

namespace Sys2Proof.Machine

open Sys2Proof.Config (Answer Frame)

/-! ### Sequencing -/

/-- `if c: f`. -/
def onlyIf (c : State → Bool) (f : State → State) (s : State) : State := if c s then f s else s

/-- `if c: f else: g`. -/
def ifElse (c : State → Bool) (f g : State → State) (s : State) : State := if c s then f s else g s

/-! ### Emitting -/

/-- Appends an action word to the output (R8, R83). -/
def emit (w : ActionWord) (s : State) : State := s.updEnv fun e => { e with out := e.out ++ [w] }

/-- `CFG.LINE_ID`. -/
def lineId (s : State) : Byte := cfgLineId s.cfg

/-- `emit IND.x(...)` with no leg (`H = 0xF`, R108). -/
def indicate (i : Ind) (s : State) : State := emit (indWord (lineId s) hAny i) s

/-- `emit IND.x[leg](...)` (R108). -/
def indicateLeg (x : Leg) (i : Ind) (s : State) : State := emit (indWord (lineId s) (legField4 x) i) s

/-! ### Errors -/

/-- `raise e` (R412): the error registers and one `ERRIND`; nothing else is written and processing goes on. -/
def raise (e : ErrCode) (s : State) : State :=
  (s.updErr fun r => { lasterr := e.code, lasterrClass := e.errClass, errcnt := countUp r.errcnt })
    |> indicate (.error e)

/-! ### The Line Resource -/

/-- The Line Resource's answer to the command just emitted (R8, R435): the next answer of the environment; a free answer
where the environment has given none. -/
def drawAnswer (s : State) : Answer × State :=
  match s.env.answers with
  | a :: rest => (a, s.updEnv fun e => { e with answers := rest })
  | [] => (Config.freeAnswer s.env.answersDrawn, s.updEnv fun e => { e with answersDrawn := e.answersDrawn + 1 })

/-- `s = lr(...)`: emits the command to resource `h` of Line `line` and draws the answer (R11). -/
def lrAsk (line : Byte) (h : BitVec 4) (c : LrCmd) (s : State) : Answer × State :=
  drawAnswer (emit (lrWord line h c) s)

/-- A command whose answer decides how the rule goes on. -/
def lrCase (line : Byte) (h : BitVec 4) (c : LrCmd) (ok notOk : State → State) (s : State) : State :=
  match lrAsk line h c s with
  | (.ok, t) => ok t
  | (.notOk, t) => notOk t

/-- `H` of Real's resource, `SUB[R].RES`. -/
def realH (s : State) : BitVec 4 := handleField s.banks.real.res

/-- `H` of a leg's resource, `SUB[x].RES`. -/
def legH (x : Leg) (s : State) : BitVec 4 := handleField (s.bank x).res

/-- A command to Real's resource whose answer decides how the rule goes on: the essential commands of R414. -/
def lrRealCase (c : LrCmd) (ok notOk : State → State) (s : State) : State := lrCase (lineId s) (realH s) c ok notOk s

/-- A non-essential command (R414): `ERR` raises the command's error and the rule goes on. -/
def lrTry (line : Byte) (h : BitVec 4) (c : LrCmd) (s : State) : State := lrCase line h c id (raise c.error) s

/-- A non-essential command to a leg's resource. -/
def lrLeg (x : Leg) (c : LrCmd) (s : State) : State := lrTry (lineId s) (legH x s) c s

/-- A non-essential command to Real's resource. -/
def lrReal (c : LrCmd) (s : State) : State := lrLeg .r c s

/-! ### Tones and changes of `ST` -/

/-- `if TONE != NONE: lr(TONESTOP[SUB[R].RES]); TONE <- NONE` (R133). -/
def stopTone (s : State) : State :=
  s |> onlyIf (fun s => s.line.tone != .none) fun s =>
    s |> lrReal .toneStop |> State.updLine fun l => { l with tone := .none }

/-- `lr(TONEPLAY[SUB[R].RES] t); TONE <- t` (R133). -/
def startTone (t : Tone) (s : State) : State :=
  s |> lrReal (.tonePlay t) |> State.updLine fun l => { l with tone := t }

/-- `goto ST = x` (R133): a change of `ST` stops the tone first. -/
def goTo (x : CallState) (s : State) : State :=
  s |> onlyIf (fun s => x != s.line.st) stopTone |> State.updLine fun l => { l with st := x }

/-! ### Memory -/

/-- The byte at a key. -/
def memRead : Memory → Nat → Byte
  | [], _ => Memory.unlisted
  | (a, b) :: m, k => if a = k then b else memRead m k

/-- The listed cells of consecutive bytes. -/
def memCells : Nat → List Byte → Memory
  | _, [] => []
  | k, b :: bs => if b = Memory.unlisted then memCells (k + 1) bs else (k, b) :: memCells (k + 1) bs

/-- The memory with consecutive bytes written from a key on; the canonical form is kept. -/
def memWrite (m : Memory) (k : Nat) (bs : List Byte) : Memory :=
  m.filter (fun c => c.1 < k) ++ memCells k bs ++ m.filter (fun c => k + bs.length ≤ c.1)

/-- `MemRead(space, addr, 1)` (R11). -/
def rd (sp : Space) (a : Nat) (s : State) : Byte := memRead s.mem (sp.key a)

/-- `MemRead(space, addr, n)` as a list of bytes (R11). -/
def rdList (sp : Space) (a n : Nat) (s : State) : List Byte := (List.range n).map fun i => rd sp (a + i) s

/-- `MemWrite(space, addr, bytes)` (R11). -/
def wr (sp : Space) (a : Nat) (bs : List Byte) (s : State) : State := s.updMem fun m => memWrite m (sp.key a) bs

/-! ### Received frames -/

/-- The frame the Line Resource has just read (R73): `FRAME_SAMPLES` samples, a free one where the environment gives none. -/
def nextFrame (s : State) : Frame :=
  (List.range s.par.codec.frameSamples).map fun k =>
    (s.env.frames.headD []).getD k (Config.freeSample s.env.framesDrawn k)

/-- What the Line Resource does before it delivers a `TICK` with `RXVALID` (R73): it fills `RXBUF` with the next frame
(DESIGN CHOICE, notes/assumptions/5.md). -/
def receiveFrame (s : State) : State :=
  s |> State.updEnv (fun e => { e with frames := e.frames.tail, framesDrawn := e.framesDrawn + 1 })
    |> wr .rxbuf 0 (nextFrame s)

/-! ### Fetching -/

/-- Takes the next event word off the Line's queue (R81). -/
def fetch (s : State) : Option (Word × State) :=
  match s.env.events with
  | w :: rest => some (w, s.updEnv fun e => { e with events := rest })
  | [] => none

/-! ### Entry filters -/

/-- Entry of a line event, R130 steps (1), (3) and (4): `inAlarm` and `inReleasing` say whether the event passes the alarm
filter and the Releasing filter. -/
def lineEntry (inAlarm inReleasing : Bool) (body : State → State) (s : State) : State :=
  if !s.line.configured then raise .notConfigured s
  else if s.line.inalarm && !inAlarm then raise .unexpected s
  else if s.line.st == .releasing && !inReleasing then raise .unexpected s
  else body s

/-- Entry of a run-time host command, R386 step (2). -/
def hostEntry (body : State → State) (s : State) : State :=
  if !s.line.configured then raise .notConfigured s else body s

/-- A leg operand's check (R102, R110): leg 3 raises `E_BADARG` and the word is absorbed. -/
def withLeg (leg : BitVec 2) (body : Leg → State → State) (s : State) : State :=
  match legOf leg with
  | some x => body x s
  | none => raise .badArg s

end Sys2Proof.Machine
end

