-- ==== Sys2Proof/Machine/Conference.lean ====
section
/-! DEFINITION. The conference-bridge arbiter (spec/42_conference.md): the reconciliation pass, suspension for a spill, and
the host commands that change the topology inputs. -/

namespace Sys2Proof.Machine

open Sys2Proof.Config (Law)

/-! ### The predicates (R221) -/

/-- A leg is in three-way: `SUB[x].ALLOC and SUB[x].IN3WAY`. -/
def legIn3way (x : Leg) (s : State) : Bool := (s.bank x).alloc && (s.bank x).in3way

/-- `any3` (R221). -/
def any3 (s : State) : Bool := legIn3way .r s || legIn3way .cw s || legIn3way .tw s

/-- The slave entry number `i`. -/
def slaveAt (i : Nat) (s : State) : Slave := s.conf.slaves[i]?.getD Slave.empty

/-- `native` (R221). -/
def isNative (s : State) : Bool :=
  !any3 s && s.conf.nslaves == 1#3 && (slaveAt 0 s).law == cfgLaw s.cfg

/-- `own` (R221). -/
def isOwn (s : State) : Bool := any3 s || 1#3 ≤ s.conf.nslaves || s.conf.inconf

/-- `needed` (R221). -/
def isNeeded (s : State) : Bool := isOwn s || s.conf.masterV

/-! ### Desired memberships (R223, R224) -/

/-- `CONF(CFG.LINE_ID, 1, 1)`: the Line's own slot (R223). -/
def ownSlot (s : State) : Descriptor := descConf (lineId s)

/-- `D[R]` from the Line's own topology (R223). -/
def desiredRealOwn (s : State) : Descriptor :=
  if isNative s then descMonitor (slaveAt 0 s).id
  else if isOwn s then ownSlot s
  else descNone

/-- `D[R]` (R224): the master clause, then the suspension. -/
def desiredReal (s : State) : Descriptor :=
  if s.conf.confSusp then descNone
  else if s.conf.masterV then
    if s.conf.masterNative then descMonitor s.conf.masterId
    else if s.conf.masterConfnoV then descConf s.conf.masterConfno
    else desiredRealOwn s
  else desiredRealOwn s

/-- `D[x]` for `x` in {CW, TW} (R223). -/
def desiredOther (x : Leg) (s : State) : Descriptor :=
  if isOwn s && !isNative s && legIn3way x s then ownSlot s else descNone

/-- `D[x]`. -/
def desiredLeg (x : Leg) (s : State) : Descriptor :=
  match x with
  | .r => desiredReal s
  | .cw => desiredOther .cw s
  | .tw => desiredOther .tw s

/-- `DS[i]`, the same for every slave (R223). -/
def desiredSlave (s : State) : Descriptor := if isNative s then descMonitor (lineId s) else ownSlot s

/-! ### The pass (R222) -/

/-- R225: the Line's conference number. -/
def updateConfno (s : State) : State :=
  if isOwn s && !isNative s then s.updConf fun c => { c with confnoV := true, confno := lineId s }
  else if !isNeeded s then s.updConf fun c => { c with confnoV := false, confno := 0 }
  else s

/-- One leg of the pass (R222, R226): the shadow is written only if the command was answered `OK`. -/
def reconcileLeg (x : Leg) (s : State) : State :=
  let d := desiredLeg x s
  if (s.bank x).alloc && d != (s.bank x).cur then
    lrCase (lineId s) (legH x s) (.setConf d) (State.updBank x fun b => { b with cur := d }) (raise .lrConf) s
  else s

/-- `SLAVE[i].CUR <- d`. -/
def setSlaveCur (i : Nat) (d : Descriptor) (s : State) : State :=
  s.updConf fun c => { c with slaves := c.slaves.setIfInBounds i { slaveAt i s with cur := d } }

/-- One slave of the pass (R222, R228): the command is addressed to the slave's Real resource. -/
def reconcileSlave (i : Nat) (s : State) : State :=
  let d := desiredSlave s
  if i < s.conf.nslaves.toNat && d != (slaveAt i s).cur then
    lrCase (slaveAt i s).id hAny (.setConf d) (setSlaveCur i d) (raise .lrConf) s
  else s

/-- `RECONCILE_PASS` (R222). What a leg or slave desires does not depend on the shadows, the conference number or the error
registers, so it may be computed where it is used. -/
def reconcilePass (s : State) : State :=
  s |> updateConfno
    |> reconcileLeg .r |> reconcileLeg .cw |> reconcileLeg .tw
    |> reconcileSlave 0 |> reconcileSlave 1 |> reconcileSlave 2 |> reconcileSlave 3

/-! ### Suspension for a spill (R237) -/

/-- `CONF_SUSPEND` (R237). -/
def confSuspend (s : State) : State :=
  s |> onlyIf (fun s => !s.conf.confSusp) fun s =>
    s |> State.updConf (fun c => { c with saveconf := s.banks.real.cur, confSusp := true }) |> reconcilePass

/-- `CONF_RESTORE` (R237). -/
def confRestore (s : State) : State :=
  s |> onlyIf (fun s => s.conf.confSusp) fun s =>
    s |> State.updConf (fun c => { c with confSusp := false, saveconf := descNone }) |> reconcilePass

/-! ### Host commands -/

/-- `RECONCILE` (R222). -/
def hostReconcileBody (s : State) : State := reconcilePass s

/-- The index of the slave entry in use with this Line number, if any (R230, R231). -/
def slaveIndex (line : Byte) (s : State) : Option Nat :=
  (List.range Config.slaveSlots).find? fun i => i < s.conf.nslaves.toNat && (slaveAt i s).id == line

/-- `SLAVEADD` (R230). -/
def hostSlaveaddBody (line : Byte) (law : Bool) (s : State) : State :=
  if line = lineId s then raise .badArg s
  else
    match slaveIndex line s with
    | some i =>
      s |> State.updConf (fun c => { c with slaves := c.slaves.setIfInBounds i { slaveAt i s with law := lawOf law } })
        |> reconcilePass
    | none =>
      if s.par.nSlaves ≤ s.conf.nslaves.toNat then raise .slaveFull s
      else
        s |> State.updConf (fun c =>
              { c with
                slaves := c.slaves.setIfInBounds c.nslaves.toNat { id := line, law := lawOf law, cur := descNone }
                nslaves := c.nslaves + 1 })
          |> reconcilePass

/-- The entries after entry `i` has left: those above move down, the last one in use becomes empty (R231). -/
def removeSlave (i n : Nat) (v : Vector Slave Config.slaveSlots) : Vector Slave Config.slaveSlots :=
  Vector.ofFn fun j =>
    if j.val < i then v[j]
    else if j.val + 1 < n then v[j.val + 1]?.getD Slave.empty
    else if j.val + 1 = n then Slave.empty
    else v[j]

/-- `SLAVEDEL` (R231). -/
def hostSlavedelBody (line : Byte) (s : State) : State :=
  match slaveIndex line s with
  | none => raise .unexpected s
  | some i =>
    s |> onlyIf (fun s => (slaveAt i s).cur != descNone) (lrTry (slaveAt i s).id hAny (.setConf descNone))
      |> State.updConf (fun c =>
          { c with slaves := removeSlave i c.nslaves.toNat c.slaves, nslaves := c.nslaves - 1 })
      |> reconcilePass

/-- `MASTERSET` (R232). -/
def hostMastersetBody (line : Byte) (valid native : Bool) (confno : Byte) (s : State) : State :=
  if line = lineId s then raise .badArg s
  else
    s |> State.updConf (fun c =>
          { c with masterV := true, masterId := line, masterNative := native, masterConfnoV := valid,
                   masterConfno := confno })
      |> reconcilePass

/-- `MASTERCLR` (R233). -/
def hostMasterclrBody (s : State) : State :=
  s |> State.updConf (fun c =>
        { c with masterV := false, masterId := 0, masterNative := false, masterConfnoV := false, masterConfno := 0 })
    |> reconcilePass

/-- `INCONF` (R234). -/
def hostInconfBody (b : Bool) (s : State) : State :=
  s |> State.updConf (fun c => { c with inconf := b }) |> reconcilePass

end Sys2Proof.Machine
end

