-- ==== Sys2Proof/Machine/Spill.lean ====
section
/-! DEFINITION. The outbound half of the Caller-ID engine (spec/43_cid_engine.md sections 1 and 2): building a spill,
starting, completing and discarding it. Its transmission is in `Machine/Line.lean`, beside the loss of the resource. -/

namespace Sys2Proof.Machine

open Sys2Proof.Config (Law FskStd waveforms)

/-- `SPILL_KIND, SPILL_LEN, SPILL_RD, SPILL_GO` cleared: the spill is destroyed (R258, R259). -/
def destroySpill (s : State) : State :=
  s.updTx fun t => { t with kind := .none, len := 0, rd := 0, go := false }

/-- `if LIN_SAVED: lr(SETLINEAR[SUB[R].RES] 1); SUB[R].LINEAR <- 1; LIN_SAVED <- 0` (R258, R259). -/
def restoreLinear (s : State) : State :=
  s |> onlyIf (fun s => s.tx.linSaved) fun s =>
    s |> lrReal (.setLinear true)
      |> State.updBank .r (fun b => { b with linear := true })
      |> State.updTx (fun t => { t with linSaved := false })

/-- `SPILL_DISCARD` (R259). -/
def spillDiscard (s : State) : State :=
  s |> destroySpill
    |> State.updLine (fun l => { l with postwin := 0 })
    |> restoreLinear
    |> State.updConf (fun c => { c with confSusp := false, saveconf := descNone })

/-- `SPILL_START` (R256). -/
def spillStart (s : State) : State :=
  s |> State.updTx (fun t => { t with go := true, linSaved := s.banks.real.linear })
    |> onlyIf (fun s => s.banks.real.linear) (fun s =>
        s |> lrReal (.setLinear false) |> State.updBank .r (fun b => { b with linear := false }))
    |> confSuspend

/-- The window after a spill of this kind (R258, R260); the kind NONE is completed by no rule and falls under "else". -/
def windowOf (p : Config.Params) (kind : SpillKind) (c : CfgRegs) : Half :=
  match kind with
  | .cwcid => ticksOf p (cfgCidcwExpireMs c)
  | .none => ticksOf p (cfgCidSuppressMs c)
  | .cid => ticksOf p (cfgCidSuppressMs c)
  | .mwi => ticksOf p (cfgCidSuppressMs c)

/-- `SPILL_COMPLETE` (R258). -/
def spillComplete (s : State) : State :=
  s |> destroySpill
    |> restoreLinear
    |> State.updLine (fun l => { l with postwin := windowOf s.par s.tx.kind s.cfg })
    |> confRestore

/-- The samples become the spill (R251, R346): `SPILL[0..]`, `SPILL_KIND`, `SPILL_LEN`, `SPILL_RD`, `SPILL_GO`. -/
def loadSpill (kind : SpillKind) (samples : List Byte) (s : State) : State :=
  s |> wr .spill 0 samples
    |> State.updTx (fun t => { t with kind := kind, len := BitVec.ofNat 16 samples.length, rd := 0, go := false })

/-- A field of `CIDMSG`: its length byte at `a`, cut to `max`, its characters after it (R71). -/
def cidField (a max : Nat) (s : State) : List Byte := rdList .cidmsg (a + 1) (min (rd .cidmsg a s).toNat max) s

/-- The number to send (R251). -/
def cidNumber (s : State) : List Byte := cidField 0 s.par.numMax s

/-- The name to send (R251). -/
def cidName (s : State) : List Byte := cidField 17 s.par.nameMax s

/-- The samples of the name/number message in the configured signaling (R251); `digits(num)` keeps the decimal digits. -/
def cidPayload (kind : SpillKind) (s : State) : List Byte :=
  let p := s.par.codec
  let law := cfgLaw s.cfg
  let num := cidNumber s
  match cidSigOf s.cfg with
  | .bell202 => (waveforms p).synthFsk .bell202 law (fskBits p kind (mdmf p num (cidName s)))
  | .v23 => (waveforms p).synthFsk .v23 law (fskBits p kind (mdmf p num (cidName s)))
  | .dtmf => dtmfSynth p law (p.startMarker :: num.filter isDecimal ++ [p.stopMarker])

/-- The samples of a Caller-ID spill (R251, R254), for `kind` CID or CWCID; no rule asks for another kind, which would get the
plain payload (DESIGN CHOICE, notes/assumptions/26.md). -/
def cidSamples (kind : SpillKind) (s : State) : List Byte :=
  match kind with
  | .cwcid =>
    if hasFeature s.cfg .cwCid then casLong s.par.codec (cfgLaw s.cfg) ++ cidPayload kind s
    else casShort s.par.codec (cfgLaw s.cfg)
  | .none => cidPayload kind s
  | .cid => cidPayload kind s
  | .mwi => cidPayload kind s

/-- `CID_GENERATE(kind)` (R251). -/
def cidGenerate (kind : SpillKind) (s : State) : State :=
  s |> spillDiscard |> fun s => loadSpill kind (cidSamples kind s) s

/-- `CW_ALERT` (R255). -/
def cwAlert (s : State) : State :=
  s |> cidGenerate .cwcid
    |> spillStart
    |> State.updLine (fun l => { l with cwrepeat := ticksOf s.par (cfgCwRepeatMs s.cfg) })

end Sys2Proof.Machine
end

