-- ==== Sys2Proof/Machine/CallerId.lean ====
section
/-! DEFINITION. The inbound half of the Caller-ID engine (spec/43_cid_engine.md sections 3 to 5): the three detection
policies, distinctive ring and reporting. -/

namespace Sys2Proof.Machine

open Sys2Proof.Config (FskStd Params waveforms)

/-! ### Policies (R265, R268) -/

/-- `rx_dtmf` (R265): the decoder is the DTMF one. -/
def rxDtmf (c : CfgRegs) : Bool := cidSigOf c == .dtmf || cidStartOf c == .dtmfNoAlert

/-- `defer_dring` (R268). -/
def deferDring (c : CfgRegs) : Bool :=
  hasFeature c .dringAfterCid && hasFeature c .cidRx && cidStartOf c == .ring

/-- `dring_cfg` (R268). -/
def dringCfg (p : Params) (c : CfgRegs) : Bool := hasFeature c .dring && 0 < dringPatterns p c

/-- The FSK standard of the detector (R265); it is used only where the decoder is not the DTMF one. -/
def rxStd (c : CfgRegs) : FskStd :=
  match cidSigOf c with
  | .v23 => .v23
  | .bell202 => .bell202
  | .dtmf => .bell202

/-! ### Reset and start -/

/-- `CIDRX_RESET` (R266). -/
def cidrxReset (s : State) : State := s.updRx fun _ => CidRxRegs.reset

/-- `PRERING <- 0`. -/
def clearPrering (s : State) : State := s.updLine fun l => { l with prering := false }

/-- `CIDRX_BEGIN` (R267). -/
def cidrxBegin (s : State) : State :=
  s.updRx fun r =>
    { r with st := .decoding, rxlen := 0, dtmflen := 0, dtmfOpen := false, cidValid := false,
             timeout := ticksOf s.par (cfgCidTimeoutMs s.cfg) }

/-- `CIDRX_ST <- FAIL; raise e` (R268, R272, R273, R276, R285). -/
def cidrxFail (e : ErrCode) (s : State) : State :=
  s |> State.updRx (fun r => { r with st := .fail }) |> raise e

/-- `CID_CONCLUDED` (R269). -/
def cidConcluded (s : State) : State :=
  s |> onlyIf (fun s => deferDring s.cfg && dringCfg s.par s.cfg && !s.rx.dringDone)
    (State.updRx fun r => { r with dringOn := true })

/-- `if ST = Offered: CID_CONCLUDED` (R272, R273, R276). -/
def concludeIfOffered (s : State) : State := s |> onlyIf (fun s => s.line.st == .offered) cidConcluded

/-! ### Commit (R275) -/

/-- A field of `CIDOUT` (R71, R275): its length, its first `max` bytes, and zeros up to the 16 bytes of the field. -/
def cidOutField (max : Nat) (v : List Byte) : List Byte :=
  BitVec.ofNat 8 (min v.length max) :: (v.take max ++ List.replicate (16 - min v.length max) 0)

/-- `CIDRX_COMMIT(num, name)` (R275). -/
def cidrxCommit (num name : List Byte) (s : State) : State :=
  s |> wr .cidout 0 (cidOutField s.par.numMax num)
    |> wr .cidout 17 (cidOutField s.par.nameMax name)
    |> State.updRx (fun r => { r with cidValid := true, st := .done })

/-! ### Distinctive ring (R282) -/

/-- One target matches one gap (R282): the wildcard, or within the range, on mathematical integers. -/
def gapMatches (wildcard target range gap : Half) : Bool :=
  target == wildcard || ((gap.toNat : Int) - target.toInt).natAbs ≤ range.toNat

/-- Target `i` of pattern `k` matches gap `i`, or the instance has no gap `i` (R282). -/
def targetMatches (p : Params) (c : CfgRegs) (gap : Vector Half Config.gapSlots) (k : Nat) (i : Fin Config.gapSlots) : Bool :=
  p.nGaps ≤ i.val || gapMatches p.dringWildcard (cfgDringTarget c k i) (cfgDringRange c k) gap[i]

/-- Every target of pattern `k` matches (R282). -/
def patternMatches (p : Params) (c : CfgRegs) (gap : Vector Half Config.gapSlots) (k : Nat) : Bool :=
  targetMatches p c gap k 0 && targetMatches p c gap k 1 && targetMatches p c gap k 2

/-- The selected context (R282): the first pattern in use that matches, else the default 0xFF. -/
def dringContext (p : Params) (c : CfgRegs) (gap : Vector Half Config.gapSlots) : Byte :=
  match (List.range (dringPatterns p c)).find? (patternMatches p c gap) with
  | some k => BitVec.ofNat 8 k
  | none => 0xFF

/-- `DRING_EVAL` (R282). -/
def dringEval (s : State) : State :=
  s.updRx fun r =>
    { r with ctx := dringContext s.par s.cfg r.gap, dringOn := false, dringDone := true, ngap := 0, gap := #v[0, 0, 0] }

/-! ### Reporting (R284, R285) -/

/-- `emit IND.CIDRESULT[R](CID_VALID, CTX); RESULT_SENT <- 1`. -/
def sendCidResult (s : State) : State :=
  s |> indicateLeg .r (.cidResult s.rx.cidValid s.rx.ctx) |> State.updRx (fun r => { r with resultSent := true })

/-- `CIDRX_ST in {OFF, DONE, FAIL}` (R284). -/
def cidrxAtRest (st : CidRxState) : Bool := st == .off || st == .done || st == .fail

/-- `CIDRX_CHECK_RESULT` (R284). -/
def cidrxCheckResult (s : State) : State :=
  s |> onlyIf (fun s =>
    s.line.st == .offered && s.line.calldir == .inbound && !s.line.hook && !s.rx.resultSent
      && cidrxAtRest s.rx.st && !s.rx.dringOn) sendCidResult

/-- `CIDRX_FINALIZE` (R285); it does not run `CID_CONCLUDED` (DEDUCED, notes/assumptions/11.md). -/
def cidrxFinalize (s : State) : State :=
  s |> onlyIf (fun s => s.rx.st == .settle || s.rx.st == .decoding || s.rx.st == .waitDring) (cidrxFail .cidFail)
    |> onlyIf (fun s => s.rx.dringOn) dringEval
    |> State.updRx (fun r => { r with timeout := 0 })
    |> onlyIf (fun s => !s.rx.resultSent) sendCidResult

/-! ### Ring bursts (R268) -/

/-- The branch `first` of `CIDRX_ONRING` (R268). -/
def cidrxFirstRing (s : State) : State :=
  s |> clearPrering
    |> onlyIf (fun s => s.rx.st == .settle || s.rx.st == .decoding) (cidrxFail .cidFail)
    |> State.updRx (fun r =>
        { r with ngap := 0, gap := #v[0, 0, 0], dringOn := false, dringDone := false, ctx := 0xFF, resultSent := false })
    |> onlyIf (fun s => dringCfg s.par s.cfg && !deferDring s.cfg) (State.updRx fun r => { r with dringOn := true })
    |> onlyIf (fun s => hasFeature s.cfg .cidRx && cidStartOf s.cfg == .ring)
        (ifElse (fun s => s.rx.dringOn) (State.updRx fun r => { r with st := .waitDring }) cidrxBegin)

/-- `GAP[NGAP] <- min(since(LASTRING_T), 65535); NGAP <- NGAP + 1` (R268, R280). -/
def captureGap (s : State) : State :=
  s.updRx fun r =>
    { r with
      gap := r.gap.setIfInBounds r.ngap.toNat (BitVec.ofNat 16 (min (sinceAt s.line.now r.lastringT) 65535))
      ngap := r.ngap + 1 }

/-- The branch `not first` of `CIDRX_ONRING` (R268). -/
def cidrxNextRing (s : State) : State :=
  s |> ifElse (fun s => s.rx.dringOn)
    (fun s =>
      s |> captureGap
        |> onlyIf (fun s => s.rx.ngap.toNat == s.par.nGaps) (fun s =>
            s |> dringEval |> onlyIf (fun s => s.rx.st == .waitDring) cidrxBegin))
    (onlyIf (fun s => s.rx.st == .decoding) fun s => s |> cidrxFail .cidFail |> cidConcluded)

/-- `CIDRX_ONRING(first)` (R268). -/
def cidrxOnRing (first : Bool) (s : State) : State :=
  s |> (if first then cidrxFirstRing else cidrxNextRing) |> cidrxCheckResult

/-- `CIDRX_ONPOLARITY` (R270). -/
def cidrxOnPolarity (s : State) : State :=
  s |> cidrxReset |> State.updLine (fun l => { l with prering := true }) |> cidrxBegin

/-! ### DTMF (R276) -/

/-- `DTMFACC[DTMFLEN] <- d; DTMFLEN <- DTMFLEN + 1`, at most `NUM_MAX` digits (R276). -/
def appendDigit (d : Byte) (s : State) : State :=
  s |> onlyIf (fun s => s.rx.dtmflen.toNat < s.par.numMax) fun s =>
    s |> wr .dtmfacc s.rx.dtmflen.toNat [d] |> State.updRx (fun r => { r with dtmflen := r.dtmflen + 1 })

/-- `CIDRX_DTMF(d)` (R276). -/
def cidrxDtmf (d : Byte) (s : State) : State :=
  s |> ifElse (fun s => !s.rx.dtmfOpen)
        (onlyIf (fun s => d == s.par.codec.startMarker) (State.updRx fun r => { r with dtmfOpen := true }))
        (ifElse (fun s => d == s.par.codec.stopMarker)
          (fun s => s |> cidrxCommit (rdList .dtmfacc 0 s.rx.dtmflen.toNat s) [] |> concludeIfOffered)
          (ifElse (fun _ => isDecimal d) (appendDigit d)
            (fun s => s |> cidrxFail .cidFail |> concludeIfOffered)))
    |> cidrxCheckResult

/-! ### The tick (R272 to R274) -/

/-- The received frame, all of `RXBUF` (R73). -/
def rxFrame (s : State) : List Byte := rdList .rxbuf 0 s.par.codec.frameSamples s

/-- FSK feed (R273). -/
def cidrxFeed (s : State) : State :=
  if s.par.spillBytes < s.rx.rxlen.toNat + s.par.codec.frameSamples then
    s |> cidrxFail .cidFail |> concludeIfOffered
  else
    let t := s |> wr .rxacc s.rx.rxlen.toNat (rxFrame s)
               |> State.updRx (fun r => { r with rxlen := r.rxlen + BitVec.ofNat 16 s.par.codec.frameSamples })
    match cidDecode t.par.codec (rxStd t.cfg) (cfgLaw t.cfg) (rdList .rxacc 0 t.rx.rxlen.toNat t) with
    | .more => t
    | .error => t |> cidrxFail .cidFail |> concludeIfOffered
    | .done num name => t |> cidrxCommit num name |> concludeIfOffered

/-- `MWI_ST in {NULL, Done}`. -/
def mwiQuiet (s : State) : Bool := s.mwi.st == .null || s.mwi.st == .done

/-- The energy watch of DTMF-without-alert (R274). -/
def energyWatch (s : State) : State :=
  s |> onlyIf (fun s =>
      hasFeature s.cfg .cidRx && cidStartOf s.cfg == .dtmfNoAlert && s.line.st == .idle && s.line.postwin == 0
        && mwiQuiet s && !s.line.inalarm
        && cfgDtmfThresh s.cfg < (waveforms s.par.codec).frameEnergy (cfgLaw s.cfg) (rxFrame s)) fun s =>
    s |> cidrxReset
      |> State.updRx (fun r =>
          { r with st := .settle, settle := BitVec.ofNat 8 (s.par.ticks s.par.dtmfSettleMs) })

/-- The `SETTLE` branch of `CIDRX_TICK` (R272). -/
def settleTick (s : State) : State :=
  s |> State.updRx (fun r => { r with settle := countDown r.settle })
    |> onlyIf (fun s => s.rx.settle == 0) cidrxBegin

/-- The `case CIDRX_ST` of `CIDRX_TICK` (R272). -/
def cidrxTickCase (rxvalid : Bool) (s : State) : State :=
  match s.rx.st with
  | .off => if rxvalid then energyWatch s else s
  | .settle => settleTick s
  | .decoding => if rxvalid && !rxDtmf s.cfg then cidrxFeed s else s
  | .done => s
  | .fail => s
  | .waitDring => s

/-- What the overall timeout does when it reaches zero (R272). -/
def cidrxExpire (s : State) : State :=
  s |> onlyIf (fun s => s.rx.st == .decoding) (fun s => s |> cidrxFail .cidTimeout |> concludeIfOffered)
    |> onlyIf (fun s => s.line.st == .idle) (fun s => s |> cidrxReset |> clearPrering)

/-- The overall timeout of `CIDRX_TICK` (R272). -/
def cidrxCountdown (s : State) : State :=
  s |> onlyIf (fun s => s.rx.timeout != 0) fun s =>
    s |> State.updRx (fun r => { r with timeout := countDown r.timeout })
      |> onlyIf (fun s => s.rx.timeout == 0) cidrxExpire

/-- `CIDRX_TICK(rxvalid)` (R272). -/
def cidrxTick (rxvalid : Bool) (s : State) : State :=
  s |> cidrxTickCase rxvalid |> cidrxCountdown |> cidrxCheckResult

end Sys2Proof.Machine
end

