-- ==== Sys2Proof/Machine/Mwi.lean ====
section
/-! DEFINITION. The MWI send engine (spec/45_mwi.md). -/

namespace Sys2Proof.Machine

open Sys2Proof.Config (FskStd waveforms)

/-- `MWI_ST <- x`. -/
def setMwi (x : MwiState) (s : State) : State := s.updMwi fun m => { m with st := x }

/-- The standard of an MWI spill: "always FSK" (R346). -/
def mwiStd (c : CfgRegs) : FskStd :=
  match cidSigOf c with
  | .v23 => .v23
  | .bell202 => .bell202
  | .dtmf => .bell202

/-- The samples of an MWI spill (R346). -/
def mwiSamples (s : State) : List Byte :=
  (waveforms s.par.codec).synthFsk (mwiStd s.cfg) (cfgLaw s.cfg)
    (fskBits s.par.codec .mwi (mwiMsg s.par.codec s.mwi.msgs))

/-- `MWI_ENTER_SENDSPILL` (R346). -/
def mwiEnterSendSpill (s : State) : State :=
  s |> spillDiscard
    |> (fun s => loadSpill .mwi (mwiSamples s) s)
    |> spillStart
    |> setMwi .sendSpill

/-- The condition of `MWI_TRY_START` (R342). -/
def mwiMayStart (s : State) : Bool :=
  s.mwi.pending && hasFeature s.cfg .mwiSend && mwiQuiet s && s.line.st == .idle && !s.banks.real.owned
    && !s.line.hook && !s.line.inalarm && s.rx.st == .off && !s.line.prering && s.tx.kind == .none

/-- `MWI_TRY_START` (R342). -/
def mwiTryStart (s : State) : State :=
  s |> onlyIf mwiMayStart fun s =>
    s |> State.updMwi (fun m => { m with pending := false })
      |> ifElse (fun s => hasFeature s.cfg .mwiRpas) (setMwi .sendAlert) mwiEnterSendSpill

/-- `MWINOTIFY` (R341). -/
def hostMwinotifyBody (b : Bool) (s : State) : State :=
  s |> onlyIf (fun s => b != s.mwi.msgs) fun s =>
    s |> State.updMwi (fun m => { m with msgs := b })
      |> onlyIf (fun s => hasFeature s.cfg .mwiSend) (fun s =>
          s |> State.updMwi (fun m => { m with pending := true }) |> mwiTryStart)

/-- A notification that was not delivered: Done, latched again, `MWIDONE(0)` (R343, R350). -/
def mwiGiveUp (s : State) : State :=
  s |> State.updMwi (fun m => { m with st := .done, pending := true }) |> indicate (.mwiDone false)

/-- SendAlertSignal (R343). -/
def mwiSendAlertTick (s : State) : State :=
  lrRealCase (.setHook .ring) (setMwi .alertWait) (fun s => s |> raise .lrCtrl |> mwiGiveUp) s

/-- `RINGOFF` while AlertWait (R345). -/
def mwiRingOff (s : State) : State :=
  s |> lrReal (.setHook .ringOff)
    |> State.updMwi (fun m =>
        { m with st := .pause, deadline := s.line.now + BitVec.ofNat 32 s.par.mwiPauseMs })

/-- `MWI_TICK` (R348): the branches of R343, R346 and R347. -/
def mwiTick (s : State) : State :=
  match s.mwi.st with
  | .null => s
  | .sendAlert => mwiSendAlertTick s
  | .alertWait => s
  | .pause => s |> onlyIf (fun s => reachedAt s.line.now s.mwi.deadline) mwiEnterSendSpill
  | .sendSpill => s |> onlyIf (fun s => s.tx.kind == .none) (setMwi .cleanup)
  | .cleanup => s |> indicate (.mwiDone true) |> setMwi .done
  | .done => s |> setMwi .null |> mwiTryStart

/-- The undelivered branch of `MWI_ABORT_IF_ACTIVE` (R350). -/
def mwiAbort (s : State) : State :=
  s |> onlyIf (fun s => s.mwi.st == .alertWait) (lrReal (.setHook .ringOff))
    |> spillDiscard
    |> reconcilePass
    |> mwiGiveUp

/-- `MWI_ABORT_IF_ACTIVE` (R350). -/
def mwiAbortIfActive (s : State) : State :=
  match s.mwi.st with
  | .null => s
  | .done => s
  | .sendAlert => mwiAbort s
  | .alertWait => mwiAbort s
  | .pause => mwiAbort s
  | .sendSpill => mwiAbort s
  | .cleanup => s |> setMwi .done |> indicate (.mwiDone true)

end Sys2Proof.Machine
end

