-- ==== Sys2Proof/Machine/Mux.lean ====
section
/-! DEFINITION. The subchannel multiplexer (spec/41_subchannel_mux.md section 1): `ALLOC_LEG`, `RELEASE_LEG`, `DO_SWAP` and
the host commands `ALLOC`, `RELEASE`, `SWAP`. -/

namespace Sys2Proof.Machine

/-- A handle is bound to an allocated bank (R191). -/
def handleUsed (h : Handle) (s : State) : Bool :=
  (s.banks.real.alloc && s.banks.real.res == h) || (s.banks.cw.alloc && s.banks.cw.res == h)
    || (s.banks.tw.alloc && s.banks.tw.res == h)

/-- The least handle no allocated bank has (R191); at most two other banks are allocated, so it exists (R192). -/
def freeHandle (s : State) : Handle := if !handleUsed 0 s then 0 else if !handleUsed 1 s then 1 else 2

/-- A bank freshly bound to a handle (R191). -/
def freshBank (h : Handle) : Bank := { Bank.empty with alloc := true, res := h }

/-- `ALLOC_LEG(x)` (R191) and what its caller does in each of the three cases; the caller's `conflict` and `failed` run on
a state with no bank written. -/
def allocLeg (x : Leg) (ok conflict failed : State → State) (s : State) : State :=
  if (s.bank x).alloc then conflict s
  else
    lrCase (lineId s) (handleField (freeHandle s)) .openLine
      (fun t => t |> State.updBank x (fun _ => freshBank (freeHandle s)) |> ok) failed s

/-- `RELEASE_LEG(x)` (R194). -/
def releaseLeg (x : Leg) (s : State) : State :=
  s |> onlyIf (fun s => (s.bank x).cur != descNone) (lrLeg x (.setConf descNone))
    |> onlyIf (fun s => (s.bank x).linear) (lrLeg x (.setLinear false))
    |> lrLeg x .closeLine
    |> State.updBank x (fun _ => Bank.empty)

/-- The exchange of `DO_SWAP`: everything but `PEND` (R29, R197). -/
def exchangeBanks (a b : Leg) (s : State) : State :=
  s |> State.updBank a (fun x => { s.bank b with pend := x.pend })
    |> State.updBank b (fun x => { s.bank a with pend := x.pend })

/-- `DO_SWAP(a, b)` (R197). -/
def doSwap (a b : Leg) (s : State) : State :=
  s |> onlyIf (fun _ => a == .r || b == .r) (fun s => s |> stopTone |> spillDiscard) |> exchangeBanks a b

/-- `SUB[x].OWNED <- 0; SUB[x].OWNER <- 0`. -/
def Bank.disown (b : Bank) : Bank := { b with owned := false, owner := 0 }

/-- `SUB[x].OWNED <- 1; SUB[x].OWNER <- tag`. -/
def Bank.own (tag : Byte) (b : Bank) : Bank := { b with owned := true, owner := tag }

/-- `SUB[R].OWNED <- 0; SUB[R].OWNER <- 0; SUB[R].IN3WAY <- 0; SUB[R].PEND <- 0` (R136, R141, R393). -/
def Bank.hungUp (b : Bank) : Bank := { b with owned := false, owner := 0, in3way := false, pend := 0 }

/-- `ALLOC leg` (R190). -/
def hostAllocBody (leg : BitVec 2) (s : State) : State :=
  withLeg leg (fun x => allocLeg x id (raise .conflict) (raise .lrOpen)) s

/-- `RELEASE leg` (R193). -/
def hostReleaseBody (leg : BitVec 2) (s : State) : State :=
  withLeg leg (fun x s =>
    if x = .r then raise .realRelease s
    else if !(s.bank x).alloc then raise .unexpected s
    else s |> releaseLeg x |> reconcilePass) s

/-- `SWAP a, b` (R196). -/
def hostSwapBody (a b : BitVec 2) (s : State) : State :=
  withLeg a (fun x => withLeg b fun y s =>
    if x = y then s
    else if !(s.bank x).alloc || !(s.bank y).alloc then raise .unexpected s
    else s |> doSwap x y |> reconcilePass) s

end Sys2Proof.Machine
end

