-- ==== Sys2Proof/Machine/Line.lean ====
section
/-! DEFINITION. The procedures of the call state machine that several files use (spec/40_hook_events.md R136, R137, R145;
spec/46_monitor_timebase.md R372; spec/43_cid_engine.md R257): line hangup, establishment, a ring burst, the loss of the
Line Resource and the spill transmitter. -/

namespace Sys2Proof.Machine

/-- `emit IND.HANGUPIND[x](SUB[x].OWNER, cause)`. -/
def notifyHangup (x : Leg) (cause : Cause) (s : State) : State := indicateLeg x (.hangup (s.bank x).owner cause) s

/-- Step 1 of `LINEDOWN` for one leg (R136). -/
def notifyIfOwned (cause : Cause) (skip : Option Leg) (x : Leg) (s : State) : State :=
  s |> onlyIf (fun s => (s.bank x).owned && skip != some x) (notifyHangup x cause)

/-- Law, gain and echo-cancel of a resource at their configured values (R136 step 8, R381). -/
def applyDefaults (s : State) : State :=
  s |> lrReal (.setLaw (cfgLaw s.cfg))
    |> lrReal (.setGain (cfgRxGain s.cfg) (cfgTxGain s.cfg) (cfgDrc s.cfg))
    |> lrReal (.setEc (cfgEcTaps s.cfg) false)

/-- The line registers that step 9 of `LINEDOWN` clears (R136). -/
def LineRegs.hungUp (l : LineRegs) : LineRegs :=
  { l with ringing := false, ringt := 0, pol := false, calldir := .none, prering := false, flashV := false,
           answered := false, dialPending := false, dialing := false, diallen := 0, cwrepeat := 0, postwin := 0,
           curleg := none }

/-- `LINEDOWN(cause, skip)` (R136). -/
def lineDown (cause : Cause) (skip : Option Leg) (s : State) : State :=
  s |> notifyIfOwned cause skip .r |> notifyIfOwned cause skip .cw |> notifyIfOwned cause skip .tw
    |> stopTone
    |> onlyIf (fun s => s.line.ringing && s.line.calldir == .outRing) (lrReal (.setHook .ringOff))
    |> spillDiscard
    |> onlyIf (fun s => s.banks.cw.alloc) (releaseLeg .cw)
    |> onlyIf (fun s => s.banks.tw.alloc) (releaseLeg .tw)
    |> State.updBank .r Bank.hungUp
    |> lrReal (.setHook .onHook)
    |> State.updLine (fun l => { l with hook := false })
    |> applyDefaults
    |> onlyIf (fun s => s.banks.real.linear) (fun s =>
        s |> lrReal (.setLinear false) |> State.updBank .r (fun b => { b with linear := false }))
    |> State.updLine LineRegs.hungUp
    |> cidrxReset
    |> State.updLine (fun l =>
        { l with guardUntil := l.now + (cfgGuardMs s.cfg).setWidth 32, st := .releasing })
    |> reconcilePass

/-- `ESTABLISH` (R137). -/
def establish (s : State) : State :=
  s |> goTo .active
    |> State.updLine (fun l =>
        { l with answered := true, answerT := l.now, ringt := 0, ringing := false, curleg := some .r })
    |> reconcilePass

/-- `SUB[R].PEND.<bit> <- 1`. -/
def pendReal (p : PendBit) (s : State) : State := s.updBank .r (Bank.setPend p)

/-- The first burst of `RINGBURST` (R145). -/
def ringBurstFirst (s : State) : State :=
  s |> mwiAbortIfActive
    |> goTo .offered
    |> State.updLine (fun l => { l with calldir := .inbound, ringing := true, curleg := none })
    |> State.updBank .r (Bank.own 0)
    |> State.updRx (fun r => { r with ringcnt := 1 })
    |> State.updLine (fun l => { l with ringt := ticksOf s.par (cfgRingTimeoutMs s.cfg) })
    |> indicateLeg .r .spawnSetup
    |> cidrxOnRing true
    |> State.updRx (fun r => { r with lastringT := s.line.now })

/-- A further burst of `RINGBURST` (R145). -/
def ringBurstNext (s : State) : State :=
  s |> State.updRx (fun r => { r with ringcnt := countUp r.ringcnt })
    |> State.updLine (fun l => { l with ringt := ticksOf s.par (cfgRingTimeoutMs s.cfg) })
    |> cidrxOnRing false
    |> State.updRx (fun r => { r with lastringT := s.line.now })

/-- `RINGBURST` (R145). -/
def ringBurst (s : State) : State := s |> ifElse (fun s => s.line.st == .idle) ringBurstFirst ringBurstNext

/-- `FATAL_LOSS` (R372). -/
def fatalLoss (s : State) : State :=
  s |> raise .fatal
    |> mwiAbortIfActive
    |> ifElse (fun s => s.line.st == .idle || s.line.st == .releasing)
        (fun s => s |> spillDiscard |> cidrxReset |> clearPrering |> reconcilePass)
        (lineDown .fatal none)

/-- `count` of `SPILL_TX`: `min(FRAME_SAMPLES, SPILL_LEN - SPILL_RD)` (R257). -/
def frameCount (s : State) : Nat := min s.par.codec.frameSamples (s.tx.len.toNat - s.tx.rd.toNat)

/-- `if SPILL_RD = SPILL_LEN: SPILL_COMPLETE` (R257). -/
def completeIfSent (s : State) : State := s |> onlyIf (fun s => s.tx.rd == s.tx.len) spillComplete

/-- `SPILL_TX` (R257). -/
def spillTx (s : State) : State :=
  if frameCount s = 0 then completeIfSent s
  else
    lrRealCase (.writeFrame s.tx.rd (BitVec.ofNat 16 (frameCount s)))
      (fun t => t |> State.updTx (fun x => { x with rd := x.rd + BitVec.ofNat 16 (frameCount s) }) |> completeIfSent)
      fatalLoss s

end Sys2Proof.Machine
end

