-- ==== Sys2Proof/Machine/CallControl.lean ====
section
/-! DEFINITION. Call control (spec/47_host_commands.md section 3): `CALL`, `UP`, `HANGUP`, `CWOFFER`, `POLL`, `SETLINEAR`,
`INDICATE`. -/

namespace Sys2Proof.Machine

/-! ### `CALL` (R388) -/

/-- `emit IND.CALLREFUSED(tag)` after the error. -/
def refuseCall (e : ErrCode) (tag : Byte) (s : State) : State := s |> raise e |> indicate (.callRefused tag)

/-- `CIDRX_RESET; PRERING <- 0; POL <- 0`. -/
def callClear (s : State) : State :=
  s |> cidrxReset |> clearPrering |> State.updLine fun l => { l with pol := false }

/-- `CALL` mode RING after `SETHOOK RING` was accepted. -/
def callRingAccepted (tag : Byte) (s : State) : State :=
  s |> callClear
    |> onlyIf (fun s => hasFeature s.cfg .cidTx) (cidGenerate .cid)
    |> State.updLine (fun l =>
        { l with st := .offered, calldir := .outRing, ringing := true, ringt := ticksOf s.par (cfgRingTimeoutMs s.cfg),
                 curleg := none })
    |> State.updBank .r (Bank.own tag)
    |> pendReal .needRinging

/-- The digits of `CALL` mode DIAL. -/
def callDigits (n : Byte) (s : State) : State :=
  if n = 0 then s
  else if familyOf s.cfg = .trunk then s.updLine fun l => { l with dialPending := true }
  else
    lrRealCase (.dial n) (State.updLine fun l => { l with dialing := true })
      (fun s => s |> raise .lrCtrl |> pendReal .needCongestion) s

/-- `CALL` mode DIAL after `SETHOOK OFFHOOK` was accepted. -/
def callDialAccepted (n tag : Byte) (s : State) : State :=
  s |> callClear
    |> State.updLine (fun l =>
        { l with hook := true, st := .offered, calldir := .outDial, ringing := false, ringt := 0, curleg := some .r,
                 diallen := n })
    |> State.updBank .r (Bank.own tag)
    |> callDigits n

/-- `CALL mode, n, tag` (R388); `mode` true is DIAL. -/
def hostCallBody (mode : Bool) (n tag : Byte) (s : State) : State :=
  if s.line.st != .idle || s.line.inalarm || (mode && s.par.dialMax < n.toNat) then refuseCall .refused tag s
  else
    s |> mwiAbortIfActive
      |> (if mode then lrRealCase (.setHook .offHook) (callDialAccepted n tag) (refuseCall .lrCtrl tag)
          else lrRealCase (.setHook .ring) (callRingAccepted tag) (refuseCall .lrCtrl tag))

/-! ### `UP` (R390) -/

/-- The host answers a ringing inbound call (R390). -/
def upAnswer (s : State) : State :=
  lrRealCase (.setHook .offHook)
    (fun s => s |> cidrxFinalize |> State.updLine (fun l => { l with hook := true }) |> establish) (raise .lrCtrl) s

/-- The third party has answered (R390). -/
def upThreeWay (s : State) : State :=
  s |> goTo .active |> State.updLine (fun l => { l with curleg := some .r }) |> reconcilePass

/-- `UP` while Offered (R390). -/
def upOffered (s : State) : State :=
  match s.line.calldir with
  | .inbound => if s.line.hook then establish s else upAnswer s
  | .outDial => establish s
  | .none => raise .unexpected s
  | .outRing => raise .unexpected s

/-- The case on `ST` of `UP` (R390). -/
def upCase (s : State) : State :=
  match s.line.st with
  | .offered => upOffered s
  | .threeWayDialing => upThreeWay s
  | .idle => raise .unexpected s
  | .active => raise .unexpected s
  | .onHold => raise .unexpected s
  | .releasing => raise .unexpected s

/-- `UP leg` (R390). -/
def hostUpBody (leg : BitVec 2) (s : State) : State :=
  withLeg leg (fun x s => if x ≠ .r || !s.banks.real.owned then raise .unexpected s else upCase s) s

/-! ### `HANGUP` (R392, R393) -/

/-- `was_held` of `TAKEOVER` (R393). -/
def takeoverHeld (y : Leg) (s : State) : Bool :=
  (y == .cw && s.line.st == .onHold) || (y == .tw && !s.banks.tw.in3way)

/-- `was_waiting` of `TAKEOVER` (R393). -/
def takeoverWaiting (y : Leg) (s : State) : Bool := y == .cw && s.line.st != .onHold

/-- `TAKEOVER(y)` (R393). -/
def takeover (y : Leg) (s : State) : State :=
  s |> State.updBank .r Bank.hungUp
    |> doSwap .r y
    |> releaseLeg y
    |> State.updBank .r (fun b => { b with in3way := false })
    |> State.updLine (fun l => { l with cwrepeat := 0 })
    |> onlyIf (fun _ => takeoverHeld y s) (pendReal .needUnhold)
    |> onlyIf (fun _ => takeoverWaiting y s) (pendReal .needAnswer)
    |> goTo .active
    |> State.updLine (fun l => { l with curleg := some .r })
    |> reconcilePass

/-- `HANGUP R` (R392). -/
def hangupReal (s : State) : State :=
  if s.banks.cw.owned then takeover .cw s
  else if s.banks.tw.owned then takeover .tw s
  else lineDown .dropped (some .r) s

/-- `HANGUP CW` (R392). -/
def hangupCw (s : State) : State :=
  s |> onlyIf (fun s => s.tx.kind == .cwcid) spillDiscard
    |> State.updLine (fun l => { l with cwrepeat := 0 })
    |> releaseLeg .cw
    |> onlyIf (fun _ => s.line.st == .onHold) (goTo .active)
    |> reconcilePass

/-- The new call of a three-way build whose original call is gone (R392). -/
def hangupTwDialing (s : State) : State :=
  s |> goTo .offered
    |> State.updLine (fun l =>
        { l with calldir := .inbound, ringing := false, answered := false, flashV := false })
    |> onlyIf (fun _ => s.line.tone == .dialrecall) (startTone .dialtone)

/-- `HANGUP TW` (R392). -/
def hangupTw (s : State) : State :=
  s |> releaseLeg .tw
    |> State.updBank .r (fun b => { b with in3way := false })
    |> onlyIf (fun s => s.line.st == .threeWayDialing) hangupTwDialing
    |> reconcilePass

/-- `HANGUP leg` (R392). -/
def hostHangupBody (leg : BitVec 2) (s : State) : State :=
  withLeg leg (fun x s =>
    if !(s.bank x).owned then raise .unexpected s
    else
      match x with
      | .r => hangupReal s
      | .cw => hangupCw s
      | .tw => hangupTw s) s

/-! ### `CWOFFER` (R394) -/

/-- `emit IND.CWREFUSED(tag)` after the error. -/
def refuseCw (e : ErrCode) (tag : Byte) (s : State) : State := s |> raise e |> indicate (.cwRefused tag)

/-- `CWOFFER` after `ALLOC_LEG(CW)` (R394). -/
def cwofferAccepted (tag : Byte) (s : State) : State :=
  s |> State.updBank .cw (fun b => Bank.setPend .needRinging (Bank.own tag b)) |> cwAlert

/-- `CWOFFER tag` (R394). -/
def hostCwofferBody (tag : Byte) (s : State) : State :=
  if !hasFeature s.cfg .callWaiting || s.line.st != .active || !s.line.hook then refuseCw .refused tag s
  else if s.banks.cw.alloc || s.banks.tw.alloc then refuseCw .conflict tag s
  else allocLeg .cw (cwofferAccepted tag) (refuseCw .conflict tag) (refuseCw .lrOpen tag) s

/-! ### `POLL`, `SETLINEAR`, `INDICATE` -/

/-- `POLL leg` (R396). -/
def hostPollBody (leg : BitVec 2) (s : State) : State :=
  withLeg leg (fun x s =>
    s |> indicateLeg x (.pendVal (s.bank x).pend) |> State.updBank x (fun b => { b with pend := 0 })) s

/-- `SETLINEAR leg, b` (R398). -/
def hostSetlinearBody (leg : BitVec 2) (b : Bool) (s : State) : State :=
  withLeg leg (fun x s =>
    if !(s.bank x).alloc then raise .unexpected s
    else if x = .r && s.tx.go then s.updTx fun t => { t with linSaved := b }
    else if (s.bank x).linear != b then
      lrCase (lineId s) (legH x s) (.setLinear b) (State.updBank x fun k => { k with linear := b }) (raise .lrCtrl) s
    else s) s

/-- A call the subscriber is setting up on Real (R399). -/
def settingUp (s : State) : Bool :=
  s.banks.real.owned && s.line.hook
    && (s.line.st == .threeWayDialing || (s.line.st == .offered && s.line.calldir == .inbound))

/-- `INDICATE cond` (R399). -/
def hostIndicateBody (cond : BitVec 2) (s : State) : State :=
  if !settingUp s then raise .unexpected s
  else s |> stopTone |> onlyIf (fun _ => indicatedTone cond != .none) (startTone (indicatedTone cond))

/-! ### Meanings -/

/-- `HOST.CALL` (R388). -/
def execHostCall (mode : Bool) (n tag : Byte) (s : State) : Host.Outcome State Fault Refusal :=
  .next (hostEntry (hostCallBody mode n tag) s)
/-- `HOST.UP` (R390). -/
def execHostUp (leg : BitVec 2) (s : State) : Host.Outcome State Fault Refusal := .next (hostEntry (hostUpBody leg) s)
/-- `HOST.HANGUP` (R392). -/
def execHostHangup (leg : BitVec 2) (s : State) : Host.Outcome State Fault Refusal :=
  .next (hostEntry (hostHangupBody leg) s)
/-- `HOST.CWOFFER` (R394). -/
def execHostCwoffer (tag : Byte) (s : State) : Host.Outcome State Fault Refusal :=
  .next (hostEntry (hostCwofferBody tag) s)
/-- `HOST.POLL` (R396). -/
def execHostPoll (leg : BitVec 2) (s : State) : Host.Outcome State Fault Refusal :=
  .next (hostEntry (hostPollBody leg) s)
/-- `HOST.SETLINEAR` (R398). -/
def execHostSetlinear (leg : BitVec 2) (b : Bool) (s : State) : Host.Outcome State Fault Refusal :=
  .next (hostEntry (hostSetlinearBody leg b) s)
/-- `HOST.INDICATE` (R399). -/
def execHostIndicate (cond : BitVec 2) (s : State) : Host.Outcome State Fault Refusal :=
  .next (hostEntry (hostIndicateBody cond) s)

end Sys2Proof.Machine
end

