-- ==== Sys2Proof/Machine/Flash.lean ====
section
/-! DEFINITION. The flash feature dispatcher of the LOOP family (spec/41_subchannel_mux.md section 2) and `WINKFLASH` on the
other families (spec/40_hook_events.md R147 to R149). -/

namespace Sys2Proof.Machine

/-- `FLASH_T <- NOW; FLASH_V <- 1` (R200). -/
def stampFlash (s : State) : State := s.updLine fun l => { l with flashT := l.now, flashV := true }

/-- `CURLEG <- 0 (R)`. -/
def curlegReal (s : State) : State := s.updLine fun l => { l with curleg := some .r }

/-- The bounced-flash guard (R200, R202): strictly less than `MIN_MS_SINCE_FLASH` since the last flash. -/
def isBounce (s : State) : Bool := s.line.flashV && sinceAt s.line.now s.line.flashT < s.par.minMsSinceFlash

/-- Scenario A, the call-waiting swap (R201). -/
def flashSwap (s : State) : State :=
  s |> stampFlash
    |> doSwap .r .cw
    |> State.updLine (fun l => { l with cwrepeat := 0 })
    |> State.updBank .cw (Bank.setPend .needHold)
    |> pendReal (if s.line.st != .onHold then .needAnswer else .needUnhold)
    |> goTo .onHold
    |> curlegReal
    |> reconcilePass

/-- Scenario B, the three-way build, after `ALLOC_LEG(TW)` (R204). -/
def flashBuildAllocated (s : State) : State :=
  s |> stampFlash
    |> doSwap .r .tw
    |> goTo .threeWayDialing
    |> startTone .dialrecall
    |> State.updBank .r (Bank.own 0)
    |> indicateLeg .r .spawnSetup
    |> State.updBank .tw (Bank.setPend .needHold)
    |> curlegReal
    |> reconcilePass

/-- Scenario B, the three-way build (R204). -/
def flashBuild (s : State) : State :=
  if !hasFeature s.cfg .threeWay || s.line.st != .active then raise .unexpected s
  else allocLeg .tw flashBuildAllocated (raise .conflict) (raise .lrOpen) s

/-- Three-way merge (R205). -/
def flashMerge (s : State) : State :=
  s |> stampFlash
    |> State.updBank .r (fun b => { b with in3way := true })
    |> State.updBank .tw (fun b => { b with in3way := true })
    |> doSwap .r .tw
    |> pendReal .needUnhold
    |> curlegReal
    |> reconcilePass

/-- Drop the last party (R206). -/
def flashDrop (s : State) : State :=
  s |> stampFlash
    |> notifyHangup .tw .dropped
    |> releaseLeg .tw
    |> State.updBank .r (fun b => { b with in3way := false })
    |> reconcilePass

/-- Undo an incomplete three-way (R207). -/
def flashUndo (s : State) : State :=
  s |> stampFlash
    |> notifyHangup .r .undo
    |> State.updBank .r Bank.disown
    |> doSwap .r .tw
    |> releaseLeg .tw
    |> goTo .active
    |> pendReal .needUnhold
    |> curlegReal
    |> reconcilePass

/-- The dispatcher (R200). -/
def flashDispatch (s : State) : State :=
  if !s.banks.real.owned || s.line.st == .idle || s.line.st == .offered then raise .unexpected s
  else if s.banks.cw.owned then flashSwap s
  else if s.banks.tw.owned then
    if isBounce s then lineDown .bounce none s
    else if s.line.st == .threeWayDialing then flashUndo s
    else if s.banks.tw.in3way then flashDrop s
    else flashMerge s
  else flashBuild s

/-- `ST` in {Active, OnHold, InThreeWayDialing}. -/
def CallState.isCall : CallState → Bool
  | .active => true
  | .onHold => true
  | .threeWayDialing => true
  | .idle => false
  | .offered => false
  | .releasing => false

/-- `WINKFLASH` on a TRUNK line (R148). -/
def trunkWink (s : State) : State :=
  if s.line.dialPending then
    lrRealCase (.dial s.line.diallen)
      (State.updLine fun l => { l with dialPending := false, dialing := true }) (raise .lrCtrl) s
  else if s.banks.real.owned && s.line.st.isCall then pendReal .needFlash s
  else raise .unexpected s

/-- `WINKFLASH` (R147); on a RADIO line it does nothing (R149). -/
def winkflash (s : State) : State :=
  match familyOf s.cfg with
  | .loop => flashDispatch s
  | .trunk => trunkWink s
  | .radio => s

end Sys2Proof.Machine
end

