-- ==== Sys2Proof/Machine/HookEvents.lean ====
section
/-! DEFINITION. The line events (spec/40_hook_events.md): the rule of every `HW` code, and the meaning of every `HW` and
`FAKE` word. "A `FAKE` word with code `c` is processed exactly as the `HW` word with code `c`" (R135). -/

namespace Sys2Proof.Machine

/-! ### Bodies -/

/-- `HOOK <- b`. -/
def setHookReg (b : Bool) (s : State) : State := s.updLine fun l => { l with hook := b }

/-- The line of R141 that makes the moved call an offered, ringing one. -/
def LineRegs.ringBack (timeout : Half) (l : LineRegs) : LineRegs :=
  { l with calldir := .outRing, ringing := true, ringt := timeout, answered := false, flashV := false, curleg := none }

/-- `ONHOOK` while a CallWaiting leg is owned (R141). -/
def onhookRingBack (s : State) : State :=
  s |> notifyHangup .r .onhook
    |> onlyIf (fun s => s.banks.tw.alloc) (fun s =>
        s |> onlyIf (fun s => s.banks.tw.owned) (notifyHangup .tw .onhook) |> releaseLeg .tw)
    |> State.updBank .r Bank.hungUp
    |> spillDiscard
    |> State.updLine (fun l => { l with cwrepeat := 0 })
    |> doSwap .r .cw
    |> releaseLeg .cw
    |> goTo .offered
    |> State.updLine (LineRegs.ringBack (ticksOf s.par (cfgRingTimeoutMs s.cfg)))
    |> lrReal (.setHook .ring)
    |> pendReal .needRinging
    |> onlyIf (fun _ => s.line.st == .onHold) (pendReal .needUnhold)
    |> reconcilePass

/-- `ONHOOK` in an established call (R140, R141, R142). -/
def onhookInCall (s : State) : State :=
  if s.banks.cw.owned then onhookRingBack s else lineDown .onhook none s

/-- `ONHOOK` while Offered (R140); `wasOff` is `HOOK` before the event. -/
def onhookOffered (wasOff : Bool) (s : State) : State :=
  if (s.line.calldir == .inbound && wasOff) || s.line.calldir == .outDial then lineDown .onhook none s
  else raise .unexpected s

/-- The case on `ST` of `ONHOOK` (R140). -/
def onhookCase (wasOff : Bool) (s : State) : State :=
  match s.line.st with
  | .idle => s
  | .releasing => s
  | .offered => onhookOffered wasOff s
  | .active => onhookInCall s
  | .onHold => onhookInCall s
  | .threeWayDialing => onhookInCall s

/-- `ONHOOK` (R140). -/
def onhookBody (s : State) : State := s |> setHookReg false |> onhookCase s.line.hook

/-- `OFFHOOK` while Idle: the station seizes the line (R143). -/
def seize (s : State) : State :=
  s |> setHookReg true
    |> cidrxReset
    |> clearPrering
    |> goTo .offered
    |> State.updLine (fun l => { l with calldir := .inbound, ringing := false, ringt := 0 })
    |> State.updBank .r (Bank.own 0)
    |> curlegReal
    |> startTone .dialtone
    |> indicateLeg .r .spawnSetup

/-- `OFFHOOK` while Offered (R143). -/
def answerOffered (s : State) : State :=
  if s.line.calldir == .outRing then
    s |> setHookReg true |> spillDiscard |> establish |> pendReal .needAnswer
  else if s.line.calldir == .outDial && familyOf s.cfg == .trunk then
    s |> setHookReg true |> establish |> pendReal .needAnswer
  else raise .unexpected s

/-- The case on `ST` of `OFFHOOK` (R143). -/
def offhookCase (s : State) : State :=
  match s.line.st with
  | .idle => seize s
  | .offered => answerOffered s
  | .active => raise .unexpected s
  | .onHold => raise .unexpected s
  | .threeWayDialing => raise .unexpected s
  | .releasing => s

/-- `OFFHOOK` (R143). -/
def offhookBody (s : State) : State := s |> mwiAbortIfActive |> offhookCase

/-- A line that takes a ring burst: Idle, or offered by the far side and not yet off-hook (R144, R150). -/
def takesBurst (s : State) : Bool :=
  s.line.st == .idle || (s.line.st == .offered && s.line.calldir == .inbound && !s.line.hook)

/-- `RINGOFFHOOK` (R144). -/
def ringoffhookBody (s : State) : State := s |> mwiAbortIfActive |> ifElse takesBurst ringBurst offhookCase

/-- `RINGBEGIN` (R150). -/
def ringbeginBody (s : State) : State := s |> ifElse takesBurst ringBurst (raise .unexpected)

/-- `RINGOFF` (R152). -/
def ringoffBody (s : State) : State :=
  if s.mwi.st == .alertWait then mwiRingOff s
  else if s.line.st == .offered && s.line.calldir == .outRing && s.tx.kind == .cid && !s.tx.go then spillStart s
  else s

/-- `DIALCOMPLETE` (R153). -/
def dialcompleteBody (s : State) : State :=
  if !s.line.dialing then raise .unexpected s
  else
    s |> State.updLine (fun l => { l with dialing := false })
      |> onlyIf (fun s => s.line.st == .offered && s.line.calldir == .outDial) (pendReal .needRinging)

/-- The reversal hangs up only after the guard delay (R155). -/
def polarityInCall (s : State) : State :=
  s |> onlyIf (fun s =>
      hasFeature s.cfg .hangupOnPol && s.line.answered
        && (cfgPolDelayMs s.cfg).toNat < sinceAt s.line.now s.line.answerT)
    (lineDown .polarity none)

/-- A reversal while Offered may answer the outbound call (R155). -/
def polarityOffered (s : State) : State :=
  s |> onlyIf (fun s =>
      (s.line.calldir == .outRing || s.line.calldir == .outDial) && hasFeature s.cfg .answerOnPol)
    (fun s => s |> establish |> pendReal .needAnswer)

/-- A reversal while Idle may start Caller-ID detection (R155). -/
def polarityIdle (s : State) : State :=
  s |> onlyIf (fun s => hasFeature s.cfg .cidRx && cidStartOf s.cfg == .polarity && mwiQuiet s) cidrxOnPolarity

/-- The case on `ST` of `POLARITY` (R155). -/
def polarityCase (s : State) : State :=
  match s.line.st with
  | .idle => polarityIdle s
  | .offered => polarityOffered s
  | .active => polarityInCall s
  | .onHold => polarityInCall s
  | .threeWayDialing => polarityInCall s
  | .releasing => s

/-- `POLARITY` (R155). -/
def polarityBody (s : State) : State := s |> State.updLine (fun l => { l with pol := true }) |> polarityCase

/-- `INALARM <- b`. -/
def setAlarm (b : Bool) (s : State) : State := s.updLine fun l => { l with inalarm := b }

/-- `ALARM` (R158). -/
def alarmBody (s : State) : State :=
  s |> setAlarm true
    |> mwiAbortIfActive
    |> ifElse (fun s => s.line.st != .idle && s.line.st != .releasing) (lineDown .alarm none)
        (onlyIf (fun s => s.line.prering || s.rx.st != .off) fun s => s |> cidrxReset |> clearPrering)

/-- A digit of the station goes to the owner of Real's call (R160, R161). -/
def takesDigit (s : State) : Bool :=
  s.banks.real.owned && s.line.hook && (s.line.st == .offered || s.line.st.isCall)

/-- `emit IND.DIGITIND[R](digit, pulse)`, if the call takes digits (R160, R161). -/
def deliverDigit (d : Byte) (pulse : Bool) (s : State) : State :=
  if takesDigit s then indicateLeg .r (.digit d pulse) s else raise .unexpected s

/-- `PULSEDIGIT` (R160). -/
def pulsedigitBody (d : Byte) (s : State) : State :=
  if !isDecimal d then raise .badArg s else deliverDigit d true s

/-- `DTMFDIGIT` (R161). -/
def dtmfdigitBody (d : Byte) (s : State) : State :=
  if !isDtmf d then raise .badArg s
  else if s.line.postwin != 0 then s
  else if rxDtmf s.cfg && s.rx.st == .decoding then cidrxDtmf d s
  else deliverDigit d false s

/-- `NONE` passes only the first filter of R130 (R134). -/
def noneEvent (s : State) : State := if !s.line.configured then raise .notConfigured s else s

/-! ### `HW` words -/

/-- `HW.NONE` (R134). -/
def execHwNone (s : State) : Host.Outcome State Fault Refusal := .next (noneEvent s)
/-- `HW.ONHOOK` (R140). -/
def execHwOnhook (s : State) : Host.Outcome State Fault Refusal := .next (lineEntry false true onhookBody s)
/-- `HW.OFFHOOK` (R143). -/
def execHwOffhook (s : State) : Host.Outcome State Fault Refusal := .next (lineEntry false false offhookBody s)
/-- `HW.RINGOFFHOOK` (R144). -/
def execHwRingoffhook (s : State) : Host.Outcome State Fault Refusal :=
  .next (lineEntry false false ringoffhookBody s)
/-- `HW.WINKFLASH` (R147). -/
def execHwWinkflash (s : State) : Host.Outcome State Fault Refusal := .next (lineEntry false false winkflash s)
/-- `HW.RINGBEGIN` (R150). -/
def execHwRingbegin (s : State) : Host.Outcome State Fault Refusal := .next (lineEntry false false ringbeginBody s)
/-- `HW.RINGOFF` (R152). -/
def execHwRingoff (s : State) : Host.Outcome State Fault Refusal := .next (lineEntry false false ringoffBody s)
/-- `HW.DIALCOMPLETE` (R153). -/
def execHwDialcomplete (s : State) : Host.Outcome State Fault Refusal :=
  .next (lineEntry false false dialcompleteBody s)
/-- `HW.POLARITY` (R155). -/
def execHwPolarity (s : State) : Host.Outcome State Fault Refusal := .next (lineEntry false false polarityBody s)
/-- `HW.ALARM` (R158). -/
def execHwAlarm (s : State) : Host.Outcome State Fault Refusal := .next (lineEntry true true alarmBody s)
/-- `HW.NOALARM` (R159). -/
def execHwNoalarm (s : State) : Host.Outcome State Fault Refusal := .next (lineEntry true true (setAlarm false) s)
/-- `HW.PULSEDIGIT` (R160). -/
def execHwPulsedigit (d : Byte) (s : State) : Host.Outcome State Fault Refusal :=
  .next (lineEntry false false (pulsedigitBody d) s)
/-- `HW.DTMFDIGIT` (R161). -/
def execHwDtmfdigit (d : Byte) (s : State) : Host.Outcome State Fault Refusal :=
  .next (lineEntry false false (dtmfdigitBody d) s)

/-! ### `FAKE` words (R135) -/

/-- `FAKE.NONE` (R134). -/
def execFakeNone (s : State) : Host.Outcome State Fault Refusal := .next (noneEvent s)
/-- `FAKE.ONHOOK` (R140). -/
def execFakeOnhook (s : State) : Host.Outcome State Fault Refusal := .next (lineEntry false true onhookBody s)
/-- `FAKE.OFFHOOK` (R143). -/
def execFakeOffhook (s : State) : Host.Outcome State Fault Refusal := .next (lineEntry false false offhookBody s)
/-- `FAKE.RINGOFFHOOK` (R144). -/
def execFakeRingoffhook (s : State) : Host.Outcome State Fault Refusal :=
  .next (lineEntry false false ringoffhookBody s)
/-- `FAKE.WINKFLASH` (R147). -/
def execFakeWinkflash (s : State) : Host.Outcome State Fault Refusal := .next (lineEntry false false winkflash s)
/-- `FAKE.RINGBEGIN` (R150). -/
def execFakeRingbegin (s : State) : Host.Outcome State Fault Refusal := .next (lineEntry false false ringbeginBody s)
/-- `FAKE.RINGOFF` (R152). -/
def execFakeRingoff (s : State) : Host.Outcome State Fault Refusal := .next (lineEntry false false ringoffBody s)
/-- `FAKE.DIALCOMPLETE` (R153). -/
def execFakeDialcomplete (s : State) : Host.Outcome State Fault Refusal :=
  .next (lineEntry false false dialcompleteBody s)
/-- `FAKE.POLARITY` (R155). -/
def execFakePolarity (s : State) : Host.Outcome State Fault Refusal := .next (lineEntry false false polarityBody s)
/-- `FAKE.ALARM` (R158). -/
def execFakeAlarm (s : State) : Host.Outcome State Fault Refusal := .next (lineEntry true true alarmBody s)
/-- `FAKE.NOALARM` (R159). -/
def execFakeNoalarm (s : State) : Host.Outcome State Fault Refusal := .next (lineEntry true true (setAlarm false) s)
/-- `FAKE.PULSEDIGIT` (R160). -/
def execFakePulsedigit (d : Byte) (s : State) : Host.Outcome State Fault Refusal :=
  .next (lineEntry false false (pulsedigitBody d) s)
/-- `FAKE.DTMFDIGIT` (R161). -/
def execFakeDtmfdigit (d : Byte) (s : State) : Host.Outcome State Fault Refusal :=
  .next (lineEntry false false (dtmfdigitBody d) s)

end Sys2Proof.Machine
end

