-- ==== Sys2Proof/Machine/HostAccess.lean ====
section
/-! DEFINITION. Configuration, reset and read access (spec/47_host_commands.md section 2, spec/10_state.md R37), and the
meanings of those `HOST` words and of the multiplexer's, the conference manager's and `MWINOTIFY` words. -/

namespace Sys2Proof.Machine

/-! ### Configuration (R380, R381) -/

/-- `CFGWR reg, value` (R380). -/
def hostCfgwrBody (reg : Byte) (value : Half) (s : State) : State :=
  if s.line.configured then raise .cfgLocked s
  else if 0x40#8 ≤ reg then raise .badAddr s
  else if 0x1D#8 ≤ reg then raise .badArg s
  else if reg == 0x00#8 && 10#4 < slice value 0 4 then raise .badArg s
  else if reg == 0x02#8 && (slice value 0 2 == 3#2 || slice value 2 2 == 3#2) then raise .badArg s
  else s.updCfg fun regs => regs.setIfInBounds reg.toNat (value &&& implementedMask reg)

/-- A non-essential command to handle `H0` (R381). -/
def lrZero (c : LrCmd) (s : State) : State := lrTry (lineId s) (handleField 0) c s

/-- `CFGDONE` (R381). -/
def hostCfgdoneBody (s : State) : State :=
  if s.line.configured then raise .cfgLocked s
  else
    lrCase (lineId s) (handleField 0) .openLine
      (fun t =>
        t |> State.updLine (fun l => { l with configured := true })
          |> lrZero (.setLaw (cfgLaw s.cfg))
          |> lrZero (.setGain (cfgRxGain s.cfg) (cfgTxGain s.cfg) (cfgDrc s.cfg))
          |> lrZero (.setEc (cfgEcTaps s.cfg) false))
      (raise .lrOpen) s

/-- `RESET` (R382): the reset state of this instance; the environment's side is no state of the block and stays. -/
def hostResetBody (s : State) : State := { State.resetOf s.par with env := s.env }

/-! ### Buffers (R383, R385) -/

/-- `MEMWR space, addr, data` (R383). -/
def hostMemwrBody (space : BitVec 3) (addr data : Byte) (s : State) : State :=
  match spaceOf space with
  | some sp => if sp.hostWritable && addr.toNat < sp.size s.par then wr sp addr.toNat [data] s else raise .badAddr s
  | none => raise .badAddr s

/-- `MEMRD space, addr` (R385). -/
def hostMemrdBody (space : BitVec 3) (addr : Half) (s : State) : State :=
  match spaceOf space with
  | some sp => if addr.toNat < sp.size s.par then indicate (.memVal (rd sp addr.toNat s)) s else raise .badAddr s
  | none => raise .badAddr s

/-! ### Registers by number (R37, R384) -/

/-- The low half of a 32-bit register. -/
def lowHalf (w : Word) : Half := slice w 0 16
/-- The high half of a 32-bit register. -/
def highHalf (w : Word) : Half := slice w 16 16

/-- Register 0x80 (R37). -/
def lineWord (l : LineRegs) : Half :=
  bit l.configured ++ bit l.inalarm ++ bit l.prering ++ bit l.pol ++ bit l.ringing ++ bit l.hook ++ l.calldir.code
    ++ curlegCode l.curleg ++ l.tone.code ++ l.st.code

/-- Register 0x86 (R37). -/
def dialWord (l : LineRegs) : Half :=
  0#4 ++ bit l.answered ++ bit l.flashV ++ bit l.dialing ++ bit l.dialPending ++ l.diallen

/-- The `SUB[x]` word (R37). -/
def bankWord (b : Bank) : Half :=
  0#3 ++ b.pend ++ bit b.linear ++ bit b.in3way ++ bit b.owned ++ BitVec.ofNat 2 b.res.val ++ bit b.alloc

/-- A membership descriptor, zero-extended (R37). -/
def descWord (d : Descriptor) : Half := 0#2 ++ d

/-- Register 0x8E (R37). -/
def errWord (e : ErrRegs) : Half := e.lasterrClass ++ 0#5 ++ e.lasterr

/-- Register 0x96 (R37). -/
def confWord (c : ConfRegs) : Half :=
  bit c.confnoV ++ bit c.inconf ++ bit c.confSusp ++ c.nslaves ++ 0#2 ++ c.confno

/-- Register 0x98 (R37). -/
def masterWord (c : ConfRegs) : Half :=
  bit c.masterV ++ bit c.masterNative ++ bit c.masterConfnoV ++ 0#5 ++ c.masterId

/-- Register 0x9A + 2i (R37). -/
def slaveWord (v : Slave) : Half := bit (lawBit v.law) ++ 0#7 ++ v.id

/-- Register 0xA2 (R37). -/
def spillWord (t : SpillRegs) : Half := 0#12 ++ bit t.go ++ bit t.linSaved ++ t.kind.code

/-- Register 0xA5 (R37). -/
def cidrxWord (r : CidRxRegs) : Half :=
  0#6 ++ bit r.resultSent ++ bit r.dringDone ++ bit r.dringOn ++ bit r.cidValid ++ bit r.dtmfOpen ++ r.ngap ++ r.st.code

/-- Register 0xAD (R37). -/
def mwiWord (m : MwiRegs) : Half := 0#11 ++ bit m.msgs ++ bit m.pending ++ m.st.code

/-- A byte register, zero-extended (R37). -/
def byteWord (b : Byte) : Half := 0#8 ++ b

/-- The state registers by number (R37); every other number reads 0. -/
def stateReg16 (n : Nat) (s : State) : Half :=
  match n with
  | 0x80 => lineWord s.line
  | 0x81 => s.line.ringt
  | 0x82 => lowHalf s.line.now
  | 0x83 => highHalf s.line.now
  | 0x84 => lowHalf s.line.flashT
  | 0x85 => highHalf s.line.flashT
  | 0x86 => dialWord s.line
  | 0x87 => lowHalf s.line.answerT
  | 0x88 => highHalf s.line.answerT
  | 0x89 => lowHalf s.line.guardUntil
  | 0x8A => highHalf s.line.guardUntil
  | 0x8B => s.line.cwrepeat
  | 0x8C => s.line.postwin
  | 0x8D => byteWord s.line.hkcnt
  | 0x8E => errWord s.err
  | 0x8F => s.err.errcnt
  | 0x90 => bankWord s.banks.real
  | 0x91 => bankWord s.banks.cw
  | 0x92 => bankWord s.banks.tw
  | 0x93 => descWord s.banks.real.cur
  | 0x94 => descWord s.banks.cw.cur
  | 0x95 => descWord s.banks.tw.cur
  | 0x96 => confWord s.conf
  | 0x97 => descWord s.conf.saveconf
  | 0x98 => masterWord s.conf
  | 0x99 => byteWord s.conf.masterConfno
  | 0x9A => slaveWord s.conf.slaves[0]
  | 0x9B => descWord s.conf.slaves[0].cur
  | 0x9C => slaveWord s.conf.slaves[1]
  | 0x9D => descWord s.conf.slaves[1].cur
  | 0x9E => slaveWord s.conf.slaves[2]
  | 0x9F => descWord s.conf.slaves[2].cur
  | 0xA0 => slaveWord s.conf.slaves[3]
  | 0xA1 => descWord s.conf.slaves[3].cur
  | 0xA2 => spillWord s.tx
  | 0xA3 => s.tx.len
  | 0xA4 => s.tx.rd
  | 0xA5 => cidrxWord s.rx
  | 0xA6 => s.rx.timeout
  | 0xA7 => s.rx.settle ++ s.rx.ringcnt
  | 0xA8 => s.rx.rxlen
  | 0xA9 => s.rx.gap[0]
  | 0xAA => s.rx.gap[1]
  | 0xAB => s.rx.gap[2]
  | 0xAC => s.rx.dtmflen ++ s.rx.ctx
  | 0xAD => mwiWord s.mwi
  | 0xAE => lowHalf s.mwi.deadline
  | 0xAF => highHalf s.mwi.deadline
  | 0xB0 => lowHalf s.rx.lastringT
  | 0xB1 => highHalf s.rx.lastringT
  | 0xB2 => byteWord s.banks.real.owner
  | 0xB3 => byteWord s.banks.cw.owner
  | 0xB4 => byteWord s.banks.tw.owner
  | _ => 0

/-- `REG16(reg)` (R384). -/
def reg16 (reg : Byte) (s : State) : Half := if reg < 0x40#8 then cfgRead s.cfg reg.toNat else stateReg16 reg.toNat s

/-- `RDREG reg` (R384). -/
def hostRdregBody (reg : Byte) (s : State) : State := indicate (.regVal (reg16 reg s) reg) s

/-! ### Meanings -/

/-- `HOST.CFGWR` (R380). -/
def execHostCfgwr (reg : Byte) (value : Half) (s : State) : Host.Outcome State Fault Refusal :=
  .next (hostCfgwrBody reg value s)
/-- `HOST.CFGDONE` (R381). -/
def execHostCfgdone (s : State) : Host.Outcome State Fault Refusal := .next (hostCfgdoneBody s)
/-- `HOST.RESET` (R382). -/
def execHostReset (s : State) : Host.Outcome State Fault Refusal := .next (hostResetBody s)
/-- `HOST.MEMWR` (R383). -/
def execHostMemwr (space : BitVec 3) (addr data : Byte) (s : State) : Host.Outcome State Fault Refusal :=
  .next (hostMemwrBody space addr data s)
/-- `HOST.RDREG` (R384). -/
def execHostRdreg (reg : Byte) (s : State) : Host.Outcome State Fault Refusal := .next (hostRdregBody reg s)
/-- `HOST.MEMRD` (R385). -/
def execHostMemrd (space : BitVec 3) (addr : Half) (s : State) : Host.Outcome State Fault Refusal :=
  .next (hostMemrdBody space addr s)
/-- `HOST.ALLOC` (spec/41_subchannel_mux.md R190). -/
def execHostAlloc (leg : BitVec 2) (s : State) : Host.Outcome State Fault Refusal :=
  .next (hostEntry (hostAllocBody leg) s)
/-- `HOST.RELEASE` (R193). -/
def execHostRelease (leg : BitVec 2) (s : State) : Host.Outcome State Fault Refusal :=
  .next (hostEntry (hostReleaseBody leg) s)
/-- `HOST.SWAP` (R196). -/
def execHostSwap (a b : BitVec 2) (s : State) : Host.Outcome State Fault Refusal :=
  .next (hostEntry (hostSwapBody a b) s)
/-- `HOST.RECONCILE` (spec/42_conference.md R222). -/
def execHostReconcile (s : State) : Host.Outcome State Fault Refusal := .next (hostEntry hostReconcileBody s)
/-- `HOST.SLAVEADD` (R230). -/
def execHostSlaveadd (line : Byte) (law : Bool) (s : State) : Host.Outcome State Fault Refusal :=
  .next (hostEntry (hostSlaveaddBody line law) s)
/-- `HOST.SLAVEDEL` (R231). -/
def execHostSlavedel (line : Byte) (s : State) : Host.Outcome State Fault Refusal :=
  .next (hostEntry (hostSlavedelBody line) s)
/-- `HOST.MASTERSET` (R232). -/
def execHostMasterset (line : Byte) (valid native : Bool) (confno : Byte) (s : State) :
    Host.Outcome State Fault Refusal := .next (hostEntry (hostMastersetBody line valid native confno) s)
/-- `HOST.MASTERCLR` (R233). -/
def execHostMasterclr (s : State) : Host.Outcome State Fault Refusal := .next (hostEntry hostMasterclrBody s)
/-- `HOST.INCONF` (R234). -/
def execHostInconf (b : Bool) (s : State) : Host.Outcome State Fault Refusal := .next (hostEntry (hostInconfBody b) s)
/-- `HOST.MWINOTIFY` (spec/45_mwi.md R341). -/
def execHostMwinotify (b : Bool) (s : State) : Host.Outcome State Fault Refusal :=
  .next (hostEntry (hostMwinotifyBody b) s)

end Sys2Proof.Machine
end

