-- ==== Sys2Proof/Machine/Timebase.lean ====
section
/-! DEFINITION. The timebase (spec/46_monitor_timebase.md): the parts of a tick, `TIME.TICK` and `TIME.LRFATAL`. -/

namespace Sys2Proof.Machine

/-- `NOW <- (NOW + TICK_MS) mod 2^32` (R360 part 1). -/
def advanceNow (s : State) : State := s.updLine fun l => { l with now := l.now + BitVec.ofNat 32 s.par.tickMs }

/-- Guard time (R362). -/
def guardTick (s : State) : State :=
  s |> onlyIf (fun s => s.line.st == .releasing && reachedAt s.line.now s.line.guardUntil)
    (State.updLine fun l => { l with st := .idle })

/-- Ring timeout (R363). -/
def ringTick (s : State) : State :=
  s |> onlyIf (fun s => s.line.st == .offered && s.line.ringing && s.line.ringt != 0) fun s =>
    s |> State.updLine (fun l => { l with ringt := countDown l.ringt })
      |> onlyIf (fun s => s.line.ringt == 0) (lineDown .ringTimeout none)

/-- Suppression window (R364). -/
def postwinTick (s : State) : State := s.updLine fun l => { l with postwin := countDown l.postwin }

/-- Repeat-callwaiting timer (R365). -/
def cwrepeatTick (s : State) : State :=
  s |> onlyIf (fun s => s.line.cwrepeat != 0) fun s =>
    s |> State.updLine (fun l => { l with cwrepeat := countDown l.cwrepeat })
      |> onlyIf (fun s => s.line.cwrepeat == 0 && s.banks.cw.owned && s.line.st == .active && s.line.hook) cwAlert

/-- Spill transmitter (R366). -/
def spillTick (txready : Bool) (s : State) : State := s |> onlyIf (fun s => s.tx.go && txready) spillTx

/-- `HKCNT` at the start of a housekeeping period, `ticks(MONITOR_TIMEOUT_MS)` (R369). -/
def hkPeriod (p : Config.Params) : Byte := BitVec.ofNat 8 (p.ticks p.monitorTimeoutMs)

/-- Housekeeping (R369). -/
def housekeepingTick (s : State) : State :=
  s |> State.updLine (fun l => { l with hkcnt := countDown l.hkcnt })
    |> onlyIf (fun s => s.line.hkcnt == 0) (fun s =>
        s |> State.updLine (fun l => { l with hkcnt := hkPeriod s.par }) |> mwiTryStart)

/-- Parts 1 to 9 of `TICK` (R360). -/
def tickParts (rxvalid txready : Bool) (s : State) : State :=
  s |> advanceNow |> guardTick |> ringTick |> postwinTick |> cwrepeatTick |> spillTick txready |> cidrxTick rxvalid
    |> mwiTick |> housekeepingTick

/-- `TICK` (R360), after the Line Resource has filled `RXBUF` (R73). -/
def tickBody (rxvalid txready : Bool) (s : State) : State :=
  if !s.line.configured then s
  else s |> onlyIf (fun _ => rxvalid) receiveFrame |> tickParts rxvalid txready

/-- `LRFATAL` (R372). -/
def lrfatalBody (s : State) : State := if !s.line.configured then s else fatalLoss s

/-- `TIME.TICK` (R360). -/
def execTimeTick (rxvalid txready : Bool) (s : State) : Host.Outcome State Fault Refusal :=
  .next (tickBody rxvalid txready s)
/-- `TIME.LRFATAL` (R372). -/
def execTimeLrfatal (s : State) : Host.Outcome State Fault Refusal := .next (lrfatalBody s)

end Sys2Proof.Machine
end

