-- ==== Sys2Proof/Machine/Dispatch.lean ====
section
/-! DEFINITION. What each event word does: one arm per constructor of `Instr`, each a call of the word's meaning. -/

namespace Sys2Proof.Machine

def exec (i : Instr) (s : State) : Host.Outcome State Fault Refusal :=
  match i with
  | .hwNone => Sys2Proof.Machine.execHwNone s
  | .hwOnhook => Sys2Proof.Machine.execHwOnhook s
  | .hwOffhook => Sys2Proof.Machine.execHwOffhook s
  | .hwRingoffhook => Sys2Proof.Machine.execHwRingoffhook s
  | .hwWinkflash => Sys2Proof.Machine.execHwWinkflash s
  | .hwRingbegin => Sys2Proof.Machine.execHwRingbegin s
  | .hwRingoff => Sys2Proof.Machine.execHwRingoff s
  | .hwDialcomplete => Sys2Proof.Machine.execHwDialcomplete s
  | .hwPolarity => Sys2Proof.Machine.execHwPolarity s
  | .hwAlarm => Sys2Proof.Machine.execHwAlarm s
  | .hwNoalarm => Sys2Proof.Machine.execHwNoalarm s
  | .hwPulsedigit digit => Sys2Proof.Machine.execHwPulsedigit digit s
  | .hwDtmfdigit digit => Sys2Proof.Machine.execHwDtmfdigit digit s
  | .fakeNone => Sys2Proof.Machine.execFakeNone s
  | .fakeOnhook => Sys2Proof.Machine.execFakeOnhook s
  | .fakeOffhook => Sys2Proof.Machine.execFakeOffhook s
  | .fakeRingoffhook => Sys2Proof.Machine.execFakeRingoffhook s
  | .fakeWinkflash => Sys2Proof.Machine.execFakeWinkflash s
  | .fakeRingbegin => Sys2Proof.Machine.execFakeRingbegin s
  | .fakeRingoff => Sys2Proof.Machine.execFakeRingoff s
  | .fakeDialcomplete => Sys2Proof.Machine.execFakeDialcomplete s
  | .fakePolarity => Sys2Proof.Machine.execFakePolarity s
  | .fakeAlarm => Sys2Proof.Machine.execFakeAlarm s
  | .fakeNoalarm => Sys2Proof.Machine.execFakeNoalarm s
  | .fakePulsedigit digit => Sys2Proof.Machine.execFakePulsedigit digit s
  | .fakeDtmfdigit digit => Sys2Proof.Machine.execFakeDtmfdigit digit s
  | .hostCfgwr reg value => Sys2Proof.Machine.execHostCfgwr reg value s
  | .hostCfgdone => Sys2Proof.Machine.execHostCfgdone s
  | .hostReset => Sys2Proof.Machine.execHostReset s
  | .hostMemwr space addr data => Sys2Proof.Machine.execHostMemwr space addr data s
  | .hostRdreg reg => Sys2Proof.Machine.execHostRdreg reg s
  | .hostMemrd space addr => Sys2Proof.Machine.execHostMemrd space addr s
  | .hostAlloc leg => Sys2Proof.Machine.execHostAlloc leg s
  | .hostRelease leg => Sys2Proof.Machine.execHostRelease leg s
  | .hostSwap a b => Sys2Proof.Machine.execHostSwap a b s
  | .hostReconcile => Sys2Proof.Machine.execHostReconcile s
  | .hostSlaveadd line law => Sys2Proof.Machine.execHostSlaveadd line law s
  | .hostSlavedel line => Sys2Proof.Machine.execHostSlavedel line s
  | .hostMasterset line valid native confno => Sys2Proof.Machine.execHostMasterset line valid native confno s
  | .hostMasterclr => Sys2Proof.Machine.execHostMasterclr s
  | .hostInconf b => Sys2Proof.Machine.execHostInconf b s
  | .hostCall mode n tag => Sys2Proof.Machine.execHostCall mode n tag s
  | .hostUp leg => Sys2Proof.Machine.execHostUp leg s
  | .hostHangup leg => Sys2Proof.Machine.execHostHangup leg s
  | .hostCwoffer tag => Sys2Proof.Machine.execHostCwoffer tag s
  | .hostPoll leg => Sys2Proof.Machine.execHostPoll leg s
  | .hostSetlinear leg b => Sys2Proof.Machine.execHostSetlinear leg b s
  | .hostMwinotify b => Sys2Proof.Machine.execHostMwinotify b s
  | .hostIndicate cond => Sys2Proof.Machine.execHostIndicate cond s
  | .timeTick rxvalid txready => Sys2Proof.Machine.execTimeTick rxvalid txready s
  | .timeLrfatal => Sys2Proof.Machine.execTimeLrfatal s

end Sys2Proof.Machine
end

