-- ==== Sys2Proof/Machine/Step.lean ====
section
/-! DEFINITION. One step of a Line instance (spec/00_scope.md R8, spec/20_memory.md R81): the next event word of the
Line's queue is taken, decoded and run; a word that selects no operation raises `E_BADEVENT` (spec/30_encoding.md R109).
"Between event words the block does nothing" (spec/60_exceptions.md R421): with an empty queue the step changes nothing (DESIGN
CHOICE, notes/assumptions/3.md). -/

namespace Sys2Proof.Machine

/-- What a fetched word does: its operation, or `E_BADEVENT` (R109). -/
def runWord (w : Word) (s : State) : Host.Outcome State Fault Refusal :=
  match decode w with
  | .ok i => exec i s
  | .error _ => .next (raise .badEvent s)

/-- One step. -/
def step (s : State) : Host.Outcome State Fault Refusal :=
  match fetch s with
  | some (w, t) => runWord w t
  | none => .next s

/-- `s` with an event word delivered as the next one of the queue; the words that waited follow it
(DESIGN CHOICE, notes/assumptions/4.md). -/
def State.withFetchWord (s : State) (nbits w : Nat) : State :=
  s.updEnv fun e => { e with events := BitVec.ofNat 32 (w % 2 ^ nbits) :: e.events }

end Sys2Proof.Machine
end

