-- ==== Sys2Proof/Safety.lean ====
section
/-! DEFINITION. What counts as a good state and a good step, in the terms the statements use: the invariants the spec
states or implies, the frames of the shared procedures, and readings of the action words. -/

namespace Sys2Proof.Machine

open Sys2Proof.Config (Answer)

/-! ### Invariants -/

/-- The bank invariants (spec/10_state.md R26 (a) to (e); (e) is also leg exclusivity, spec/41_subchannel_mux.md R199),
and what spec/41_subchannel_mux.md R194 leaves of a bank that is not allocated. -/
structure BankInv (s : State) : Prop where
  real_alloc : s.banks.real.alloc = true
  distinct : ∀ x y : Leg, x ≠ y → (s.bank x).alloc = true → (s.bank y).alloc = true → (s.bank x).res ≠ (s.bank y).res
  owned_alloc : ∀ x : Leg, (s.bank x).owned = true → (s.bank x).alloc = true
  in3way_alloc : ∀ x : Leg, (s.bank x).in3way = true → (s.bank x).alloc = true
  curleg : s.line.curleg = none ∨ s.line.curleg = some .r
  free : ∀ x : Leg, (s.bank x).alloc = false → s.bank x = Bank.empty

/-- A memory key that names a byte that exists in an instance with these parameters (spec/20_memory.md R70). -/
def Mapped (p : Config.Params) (k : Nat) : Prop := ∃ sp : Space, ∃ a : Nat, a < sp.size p ∧ k = sp.key a

/-- The memory is canonical and lists only bytes that exist (R70), with parameters that fit the map. -/
structure MemInv (s : State) : Prop where
  par : s.par.ok
  canonical : Memory.wf s.mem
  mapped : ∀ c ∈ s.mem, Mapped s.par c.1

/-- The outbound spill (spec/10_state.md R24, R31; spec/43_cid_engine.md R256 to R259): without a spill its registers are
zero; a spill that exists is not yet read to its end; Real's conferencing is suspended exactly while it is being sent, and
Real is in companded mode then. -/
structure SpillInv (s : State) : Prop where
  par : s.par.ok
  absent : s.tx.kind = .none → s.tx.len = 0 ∧ s.tx.rd = 0 ∧ s.tx.go = false
  unread : s.tx.kind ≠ .none → s.tx.rd < s.tx.len
  fits : s.tx.len.toNat ≤ s.par.spillBytes
  suspended : s.conf.confSusp = s.tx.go
  saved : s.tx.linSaved = true → s.tx.go = true
  companded : s.tx.go = true → s.banks.real.linear = false

/-- An Idle or Releasing line carries no call (R22: "no leg is owned, `HOOK = 0`"; spec/40_hook_events.md R136). -/
structure QuietInv (s : State) : Prop where
  quiet : s.line.st = .idle ∨ s.line.st = .releasing →
    (∀ x : Leg, (s.bank x).owned = false) ∧ s.line.hook = false ∧ s.line.ringing = false ∧ s.line.ringt = 0 ∧
    s.line.calldir = .none ∧ s.line.curleg = none ∧ s.line.answered = false ∧ s.line.flashV = false ∧
    s.line.dialPending = false ∧ s.line.dialing = false ∧ s.line.cwrepeat = 0

/-- At most two legs carry a call, and a call that is being offered is the only one: a second leg is owned only by a call
that waits or is held (spec/40_hook_events.md R162; spec/47_host_commands.md R392, R394; spec/41_subchannel_mux.md R204). -/
structure CallInv (s : State) : Prop where
  two : ¬ ((s.bank .r).owned = true ∧ (s.bank .cw).owned = true ∧ (s.bank .tw).owned = true)
  one : s.line.st = .offered → ∀ x y : Leg, (s.bank x).owned = true → (s.bank y).owned = true → x = y

/-- A tone plays only while a call is being set up (spec/40_hook_events.md R133, R163). -/
def ToneInv (s : State) : Prop := s.line.tone ≠ .none → s.line.st = .offered ∨ s.line.st = .threeWayDialing

/-- The engine is active (spec/45_mwi.md R340). -/
def MwiState.isActive : MwiState → Bool
  | .null => false
  | .sendAlert => true
  | .alertWait => true
  | .pause => true
  | .sendSpill => true
  | .cleanup => true
  | .done => false

/-- The MWI engine works only on an Idle line, and an MWI spill exists only in SendSpill (spec/45_mwi.md R342, R350). -/
structure MwiInv (s : State) : Prop where
  idle : s.mwi.st.isActive = true → s.line.st = .idle
  spill : s.tx.kind = .mwi → s.mwi.st = .sendSpill

/-- The receive side (spec/10_state.md R32; spec/43_cid_engine.md R267 to R276): the accumulators stay within their spaces,
in `DONE` a number is committed, and a pattern's last captured gap never outlasts the step that captures it. -/
structure CidInv (s : State) : Prop where
  par : s.par.ok
  rxlen : s.rx.rxlen.toNat ≤ s.par.spillBytes
  dtmflen : s.rx.dtmflen.toNat ≤ s.par.numMax
  valid : s.rx.st = .done → s.rx.cidValid = true
  ngap : s.rx.ngap.toNat < s.par.nGaps

/-- A membership descriptor of a kind the block ever commands: NONE, its place in a conference, or a digital monitor
(spec/10_state.md R28; spec/42_conference.md R223). -/
def LegalMembership (d : Descriptor) : Prop := d = descNone ∨ (∃ n, d = descConf n) ∨ ∃ n, d = descMonitor n

/-- The conference registers (spec/10_state.md R30; spec/42_conference.md R224, R225, R230 to R233, R237): the slave list is
no longer than the instance allows, names each Line once and never this one, and its unused entries are empty; no Line is its
own master; what a valid bit declares absent is zero; nothing of it exists before `CFGDONE`; the conference number is the
Line's own; and every shadow is a membership the block commands. -/
structure ConfInv (s : State) : Prop where
  par : s.par.ok
  few : s.conf.nslaves.toNat ≤ s.par.nSlaves
  distinct : ∀ i j, i < j → j < s.conf.nslaves.toNat → (slaveAt i s).id ≠ (slaveAt j s).id
  notSelf : ∀ i < s.conf.nslaves.toNat, (slaveAt i s).id ≠ lineId s
  unused : ∀ i, s.conf.nslaves.toNat ≤ i → slaveAt i s = Slave.empty
  master : s.conf.masterV = true → s.conf.masterId ≠ lineId s
  noMaster : s.conf.masterV = false → s.conf.masterId = 0 ∧ s.conf.masterNative = false ∧
    s.conf.masterConfnoV = false ∧ s.conf.masterConfno = 0
  own : s.conf.confno = if s.conf.confnoV = true then lineId s else 0
  setup : s.line.configured = false → s.conf.nslaves = 0 ∧ s.conf.masterV = false ∧ s.conf.confnoV = false
  saved : s.conf.confSusp = false → s.conf.saveconf = descNone
  legs : ∀ x : Leg, LegalMembership (s.bank x).cur
  slaves : ∀ i, LegalMembership (slaveAt i s).cur
  suspended : LegalMembership s.conf.saveconf

/-- The configuration holds only legal values and no unlisted bit (spec/30_encoding.md R112). -/
structure CfgInv (s : State) : Prop where
  masked : ∀ n : Fin cfgCount, s.cfg[n] &&& implementedMask (BitVec.ofNat 8 n.val) = s.cfg[n]
  sig : cfgRead s.cfg 0x00 ≤ 10
  cidSig : slice (cfgRead s.cfg 0x02) 0 2 ≠ 3
  cidStart : slice (cfgRead s.cfg 0x02) 2 2 ≠ 3

/-! ### Situations -/

/-- A line event passes the entry filters (spec/40_hook_events.md R130). -/
structure LineReady (s : State) : Prop where
  configured : s.line.configured = true
  noAlarm : s.line.inalarm = false
  notReleasing : s.line.st ≠ .releasing

/-- The Line Resource will answer `OK` to the next 64 commands, more than any step emits. -/
structure Accepting (s : State) : Prop where
  enough : 64 ≤ s.env.answers.length
  ok : ∀ a ∈ s.env.answers, a = .ok

/-- The Line Resource will not answer `OK` to the next command. -/
def Refusing (s : State) : Prop := s.env.answers.head? = some .notOk

/-- The Line Resource will answer `OK` to the next command. -/
def AcceptingNext (s : State) : Prop := s.env.answers.head? = some .ok

/-! ### Frames -/

/-- Every byte of every buffer space reads as before (addresses are 16 bits, R70). -/
def SameBytes (s t : State) : Prop := ∀ sp : Space, ∀ a < 65536, rd sp a t = rd sp a s

/-- Every byte reads as before but those of `sp` from `lo` to below `hi`. -/
def SameBytesBut (sp : Space) (lo hi : Nat) (s t : State) : Prop :=
  ∀ sp' : Space, ∀ a < 65536, ¬ (sp' = sp ∧ lo ≤ a ∧ a < hi) → rd sp' a t = rd sp' a s

/-- The inputs not yet taken are the same: the queue of event words and the frames. -/
structure SameInputs (s t : State) : Prop where
  events : t.env.events = s.env.events
  frames : t.env.frames = s.env.frames

/-- A bank without its membership shadow `CUR`, which reconciliation passes write. -/
def Bank.logical (b : Bank) : Bank := { b with cur := descNone }

/-- The conference registers without what reconciliation passes write: `CONFNO_V`, `CONFNO` and the slaves' shadows. -/
def ConfRegs.logical (c : ConfRegs) : ConfRegs :=
  { c with confnoV := false, confno := 0, slaves := c.slaves.map fun v => { v with cur := descNone } }

/-- The banks but for their shadows are the same. -/
def SameBanks (s t : State) : Prop := ∀ x : Leg, (t.bank x).logical = (s.bank x).logical

/-- What a reconciliation pass leaves unchanged (spec/42_conference.md R222). -/
structure PassFrame (s t : State) : Prop where
  par : t.par = s.par
  line : t.line = s.line
  banks : SameBanks s t
  conf : t.conf.logical = s.conf.logical
  tx : t.tx = s.tx
  rx : t.rx = s.rx
  mwi : t.mwi = s.mwi
  cfg : t.cfg = s.cfg
  bytes : SameBytes s t
  inputs : SameInputs s t

/-- The shadows equal the desired memberships (spec/42_conference.md R226: "no "drift" is tolerated"). -/
structure Reconciled (s : State) : Prop where
  legs : ∀ x : Leg, (s.bank x).alloc = true → (s.bank x).cur = desiredLeg x s
  slaves : ∀ i < s.conf.nslaves.toNat, i < Config.slaveSlots → (slaveAt i s).cur = desiredSlave s

/-! ### Action words (spec/30_encoding.md R106) -/

/-- `CLASS`. -/
def wordClass (w : ActionWord) : BitVec 4 := slice w 60 4
/-- `CODE`. -/
def wordCode (w : ActionWord) : Byte := slice w 52 8
/-- `LINE`. -/
def wordLine (w : ActionWord) : Byte := slice w 44 8
/-- `H`. -/
def wordH (w : ActionWord) : BitVec 4 := slice w 40 4

/-- A `SETHOOK` or `DIAL` command: one that places or hangs up the physical line (R26 (f)). -/
def isLoopCommand (w : ActionWord) : Bool := wordClass w == 1 && (wordCode w == 0x03 || wordCode w == 0x0C)

/-- An `ERRIND` indication (R108). -/
def isErrInd (w : ActionWord) : Bool := wordClass w == 2 && wordCode w == 0x05

/-- A command to the Line Resource (R107). -/
def isCommand (w : ActionWord) : Bool := wordClass w == 1

/-- The error code an `ERRIND` carries. -/
def errCodeOf (w : ActionWord) : Byte := slice w 0 8

/-- The action words that `t` has and `s` had not: those a step from `s` to `t` emitted. -/
def newWords (s t : State) : List ActionWord := t.env.out.drop s.env.out.length

/-- The commands of a step from `s` to `t` that were not answered `OK`, when `s` has an answer for each. -/
def failedCommands (s t : State) : List ActionWord :=
  ((((newWords s t).filter isCommand).zip s.env.answers).filter fun c => c.2 == .notOk).map Prod.fst

/-- `W[31:24]` of a word that is no event word (R109). -/
def undefinedOpcode (b : Byte) : Bool :=
  (0x0D ≤ b && b ≤ 0x3F) || (0x4D ≤ b && b ≤ 0x7F) || b == 0x80 || (0x87 ≤ b && b ≤ 0x8F) || (0x99 ≤ b && b ≤ 0x9F)
    || (0xA8 ≤ b && b ≤ 0xBF) || b == 0xC0 || 0xC3 ≤ b

/-! ### Kinds of word -/

/-- The words accepted before `CFGDONE` (spec/60_exceptions.md R430). -/
def isSetupWord : Instr → Bool
  | .hostCfgwr _ _ => true
  | .hostCfgdone => true
  | .hostReset => true
  | .hostMemwr _ _ _ => true
  | .hostRdreg _ => true
  | .hostMemrd _ _ => true
  | _ => false

/-- A `TIME` word. -/
def isTimeWord : Instr → Bool
  | .timeTick _ _ => true
  | .timeLrfatal => true
  | _ => false

/-- The line events but `NONE`, `ONHOOK`, `ALARM` and `NOALARM`, from both sources. -/
def isMaskableEvent : Instr → Bool
  | .hwOffhook | .hwRingoffhook | .hwWinkflash | .hwRingbegin | .hwRingoff | .hwDialcomplete | .hwPolarity
  | .hwPulsedigit _ | .hwDtmfdigit _ => true
  | .fakeOffhook | .fakeRingoffhook | .fakeWinkflash | .fakeRingbegin | .fakeRingoff | .fakeDialcomplete | .fakePolarity
  | .fakePulsedigit _ | .fakeDtmfdigit _ => true
  | _ => false

/-- `ONHOOK`, which the alarm masks and Releasing does not. -/
def isOnhook : Instr → Bool
  | .hwOnhook => true
  | .fakeOnhook => true
  | _ => false

/-- `OFFHOOK`, from both sources. -/
def isOffhook : Instr → Bool
  | .hwOffhook => true
  | .fakeOffhook => true
  | _ => false

/-- `RINGOFFHOOK`, from both sources. -/
def isRingoffhook : Instr → Bool
  | .hwRingoffhook => true
  | .fakeRingoffhook => true
  | _ => false

/-- `RINGBEGIN`, from both sources. -/
def isRingbegin : Instr → Bool
  | .hwRingbegin => true
  | .fakeRingbegin => true
  | _ => false

/-- `WINKFLASH`, from both sources. -/
def isWinkflash : Instr → Bool
  | .hwWinkflash => true
  | .fakeWinkflash => true
  | _ => false

/-- `POLARITY`, from both sources. -/
def isPolarity : Instr → Bool
  | .hwPolarity => true
  | .fakePolarity => true
  | _ => false

/-- `ALARM`, from both sources. -/
def isAlarm : Instr → Bool
  | .hwAlarm => true
  | .fakeAlarm => true
  | _ => false

/-- `HOST.CALL`. -/
def isCallWord : Instr → Bool
  | .hostCall _ _ _ => true
  | _ => false

/-- `TIME.TICK`. -/
def isTick : Instr → Bool
  | .timeTick _ _ => true
  | _ => false

/-- The words that may hang the line up: `ONHOOK`, a bounced flash, `POLARITY`, `ALARM`, `LRFATAL`, `HANGUP R`, and a `TICK`
(the ring timeout, or the loss of the Line Resource in it). -/
def mayHangUp (i : Instr) : Bool :=
  isOnhook i || isWinkflash i || isPolarity i || isAlarm i || isTick i || i == .timeLrfatal || i == .hostHangup 0

/-- The table of spec/40_hook_events.md R162, `ST` from `x` to another value `y`: which words take the transition. A `TICK`
that loses the Line Resource is the case `LRFATAL` (spec/43_cid_engine.md R257). One entry is not R162's: a flash with a
CallWaiting leg owned goes from InThreeWayDialing to OnHold, as the pseudocode of spec/41_subchannel_mux.md R200 and R201 has
it (DEDUCED, notes/assumptions/27.md). `RESET` leaves every state for Idle (spec/47_host_commands.md R382). -/
def mayMove (x y : CallState) (i : Instr) : Bool :=
  match x, y with
  | .idle, .offered => isOffhook i || isRingbegin i || isRingoffhook i || isCallWord i
  | .offered, .active => isOffhook i || isRingoffhook i || isPolarity i || i == .hostUp 0
  | .offered, .releasing => mayHangUp i && !isWinkflash i && !isPolarity i
  | .active, .onHold => isWinkflash i
  | .onHold, .active => i == .hostHangup 1 || i == .hostHangup 0
  | .active, .threeWayDialing => isWinkflash i
  | .threeWayDialing, .active => i == .hostUp 0 || isWinkflash i || i == .hostHangup 0
  | .threeWayDialing, .onHold => isWinkflash i
  | .threeWayDialing, .offered => i == .hostHangup 2 || isOnhook i
  | .active, .offered => isOnhook i
  | .onHold, .offered => isOnhook i
  | .active, .releasing => mayHangUp i
  | .onHold, .releasing => mayHangUp i
  | .threeWayDialing, .releasing => mayHangUp i
  | .releasing, .idle => isTick i || i == .hostReset
  | .offered, .idle => i == .hostReset
  | .active, .idle => i == .hostReset
  | .onHold, .idle => i == .hostReset
  | .threeWayDialing, .idle => i == .hostReset
  | _, _ => false

/-- The tone after a word has changed `ST` to `y` (R133, R163): the seizing station hears the dial tone, a three-way build
the dial-recall tone, the new call of a build whose original call is gone the dial tone if dial-recall was playing; else
nothing plays. -/
def toneOnMove (s : State) (y : CallState) (i : Instr) : Tone :=
  match s.line.st, y with
  | .idle, .offered => if isOffhook i then .dialtone else .none
  | .active, .threeWayDialing => .dialrecall
  | .threeWayDialing, .offered => if !isOnhook i && s.line.tone == .dialrecall then .dialtone else .none
  | _, _ => .none

/-! ### Results of the shared procedures -/

/-- `Real`'s bank takes back its linear mode when a spill is discarded (spec/43_cid_engine.md R259). -/
def linearAfterDiscard (s : State) : Bool := s.banks.real.linear || s.tx.linSaved

/-- What `LINEDOWN(cause, skip)` leaves (spec/40_hook_events.md R136): `t` is `s` hung up. -/
structure HungUp (cause : Cause) (skip : Option Leg) (s t : State) : Prop where
  par : t.par = s.par
  line : t.line =
    { s.line with
      st := .releasing, hook := false, ringing := false, ringt := 0, pol := false, calldir := .none, prering := false,
      flashV := false, answered := false, dialPending := false, dialing := false, diallen := 0, tone := .none,
      cwrepeat := 0, postwin := 0, curleg := none, guardUntil := s.line.now + (cfgGuardMs s.cfg).setWidth 32 }
  real : t.banks.real.logical = { Bank.empty with alloc := s.banks.real.alloc, res := s.banks.real.res }
  cw : t.banks.cw = if s.banks.cw.alloc then Bank.empty else s.banks.cw
  tw : t.banks.tw = if s.banks.tw.alloc then Bank.empty else s.banks.tw
  conf : t.conf.logical = { s.conf with confSusp := false, saveconf := descNone }.logical
  tx : t.tx = SpillRegs.reset
  rx : t.rx = CidRxRegs.reset
  mwi : t.mwi = s.mwi
  cfg : t.cfg = s.cfg
  bytes : SameBytes s t
  inputs : SameInputs s t
  told : ∀ x : Leg, (s.bank x).owned = true → skip ≠ some x →
    indWord (lineId s) (legField4 x) (.hangup (s.bank x).owner cause) ∈ newWords s t
  commanded : lrWord (lineId s) (handleField s.banks.real.res) (.setHook .onHook) ∈ newWords s t

/-- What no line rule of this kind writes: parameters, configuration, Caller-ID receive, MWI, the buffers and the inputs. -/
structure CallFrame (s t : State) : Prop where
  par : t.par = s.par
  rx : t.rx = s.rx
  mwi : t.mwi = s.mwi
  cfg : t.cfg = s.cfg
  bytes : SameBytes s t
  inputs : SameInputs s t

/-- Where a discarded spill leaves the spill registers and the suspension (spec/43_cid_engine.md R259). -/
structure SpillGone (s t : State) : Prop where
  tx : t.tx = SpillRegs.reset
  conf : t.conf.logical = { s.conf with confSusp := false, saveconf := descNone }.logical

/-- A spill of this kind was made of these samples and its sending has begun (spec/43_cid_engine.md R251, R256; spec/42_conference.md
R237): its bytes stand in `SPILL` from 0 and `SPILL_LEN` is their number; Real is companded and out of any conference. -/
structure SpillBegun (kind : SpillKind) (samples : List Byte) (s t : State) : Prop where
  tx : t.tx =
    { kind := kind, len := BitVec.ofNat 16 samples.length, rd := 0, go := true, linSaved := linearAfterDiscard s }
  bytes : ∀ k, (h : k < samples.length) → rd .spill k t = samples[k]
  others : SameBytesBut .spill 0 samples.length s t
  real : t.banks.real.logical = { s.banks.real with linear := false }.logical
  conf : t.conf.logical = { s.conf with confSusp := true, saveconf := s.banks.real.cur }.logical

/-- `CIDOUT` holds this number and name (spec/20_memory.md R71; spec/43_cid_engine.md R275): of each its length and its
first characters, at most `NUM_MAX` and `NAME_MAX`, then zeros to the end of the field. -/
structure Committed (num name : List Byte) (t : State) : Prop where
  numLength : rd .cidout 0 t = BitVec.ofNat 8 (min num.length t.par.numMax)
  number : ∀ k < 16, rd .cidout (1 + k) t = if k < t.par.numMax then num.getD k 0 else 0
  nameLength : rd .cidout 17 t = BitVec.ofNat 8 (min name.length t.par.nameMax)
  name : ∀ k < 16, rd .cidout (18 + k) t = if k < t.par.nameMax then name.getD k 0 else 0

/-- The end of a decode starts the cadence sampling that was put off until then (spec/43_cid_engine.md R269). -/
def samplingStarts (s : State) : Bool :=
  s.line.st == .offered && deferDring s.cfg && dringCfg s.par s.cfg && !s.rx.dringDone

/-- The result is told as soon as the receiver is at rest and no cadence is sampled (spec/43_cid_engine.md R284): the far side
rings, nobody has answered, and it has not been told. -/
def resultDue (s : State) : Bool :=
  s.line.st == .offered && s.line.calldir == .inbound && !s.line.hook && !s.rx.resultSent

/-- The receive registers after a decode has ended in `st` (spec/43_cid_engine.md R269, R284). -/
def concludedRx (st : CidRxState) (valid : Bool) (s : State) : CidRxRegs :=
  let sampling := s.rx.dringOn || samplingStarts s
  { s.rx with
    st := st, cidValid := valid, dringOn := sampling, resultSent := s.rx.resultSent || (resultDue s && !sampling) }

/-- What the host is told when a decode ends (spec/43_cid_engine.md R284). -/
def concludedWords (valid : Bool) (s : State) : List ActionWord :=
  if resultDue s && !(s.rx.dringOn || samplingStarts s) then [indWord (lineId s) 0 (.cidResult valid s.rx.ctx)] else []

/-- The line registers after the counting of one `TICK` of an instance with these parameters (spec/46_monitor_timebase.md R360
part 1, R363 to R365, R369): the clock, the ring budget, the suppression window, the repeat-callwaiting timer and the
housekeeping counter. -/
def LineRegs.ticked (p : Config.Params) (l : LineRegs) : LineRegs :=
  { l with
    now := l.now + BitVec.ofNat 32 p.tickMs
    ringt := if l.st = .offered ∧ l.ringing = true ∧ l.ringt ≠ 0 then l.ringt - 1 else l.ringt
    postwin := if l.postwin = 0 then 0 else l.postwin - 1
    cwrepeat := if l.cwrepeat = 0 then 0 else l.cwrepeat - 1
    hkcnt := if l.hkcnt ≤ 1 then BitVec.ofNat 8 (p.ticks p.monitorTimeoutMs) else l.hkcnt - 1 }

/-- No timer of the line is due that does more than count, so a `TICK` counts and serves the transmitter, the receiver, the
MWI engine and housekeeping alone (spec/46_monitor_timebase.md R360, R362, R363, R365). -/
structure CountingLine (s : State) : Prop where
  configured : s.line.configured = true
  notReleasing : s.line.st ≠ .releasing
  noRingOut : s.line.ringt ≠ 1 ∨ s.line.st ≠ .offered ∨ s.line.ringing = false
  noAlert : s.line.cwrepeat ≠ 1 ∨ s.banks.cw.owned = false ∨ s.line.st ≠ .active ∨ s.line.hook = false

/-- Besides, nothing is being sent (spec/46_monitor_timebase.md R366). -/
structure CalmLine (s : State) : Prop extends CountingLine s where
  noSpill : s.tx.go = false

/-- The receiver does nothing and reports nothing in a `TICK` without a frame (spec/43_cid_engine.md R272, R284). -/
structure CalmRx (s : State) : Prop where
  off : s.rx.st = .off
  noTimeout : s.rx.timeout = 0
  noneDue : resultDue s = false ∨ s.rx.dringOn = true

/-- The MWI engine has nothing to do (spec/45_mwi.md R342, R348). -/
structure CalmMwi (s : State) : Prop where
  null : s.mwi.st = .null
  noneWaiting : s.mwi.pending = false

/-- The MWI engine only waits in a `TICK` that leaves `SPILL_KIND` as it is: it may not start, or it waits for the ring-off
event or for its spill's end (spec/45_mwi.md R342, R345, R346, R348). -/
def MwiWaits (s : State) : Prop :=
  s.mwi.st = .null ∧ (s.mwi.pending = false ∨ s.line.st ≠ .idle ∨ s.tx.kind ≠ .none) ∨
  s.mwi.st = .alertWait ∨ s.mwi.st = .sendSpill ∧ s.tx.kind ≠ .none

/-- The command that writes the next `n` samples of the spill (spec/43_cid_engine.md R257). -/
def frameWord (n : Half) (s : State) : ActionWord :=
  lrWord (lineId s) (handleField s.banks.real.res) (.writeFrame s.tx.rd n)

/-- What a `TICK` that writes the last frame of a spill leaves but for the MWI registers (spec/43_cid_engine.md R257,
R258): `SPILL_COMPLETE` has run, so the spill is gone, Real has its linear mode and its membership back, and the suppression
window of the spill's kind begins. -/
structure SpillSent (s t : State) : Prop where
  par : t.par = s.par
  line : t.line =
    { s.line.ticked s.par with
      postwin := ticksOf s.par (if s.tx.kind = .cwcid then cfgCidcwExpireMs s.cfg else cfgCidSuppressMs s.cfg) }
  real : t.banks.real.logical = { s.banks.real with linear := linearAfterDiscard s }.logical
  cw : t.banks.cw.logical = s.banks.cw.logical
  tw : t.banks.tw.logical = s.banks.tw.logical
  conf : t.conf.logical =
    (if s.conf.confSusp = true then { s.conf with confSusp := false, saveconf := descNone } else s.conf).logical
  tx : t.tx = SpillRegs.reset
  rx : t.rx = s.rx
  cfg : t.cfg = s.cfg
  bytes : SameBytes s t
  inputs : SameInputs s t
  first : (newWords s t).head? = some (frameWord (s.tx.len - s.tx.rd) s)
  accepted : Accepting s → t.err = s.err ∧ (s.conf.confSusp = true → Reconciled t)

/-- The registers are the same: everything but the errors, the output and the answers. -/
structure SameRegisters (s t : State) : Prop where
  par : t.par = s.par
  line : t.line = s.line
  banks : t.banks = s.banks
  conf : t.conf = s.conf
  tx : t.tx = s.tx
  rx : t.rx = s.rx
  mwi : t.mwi = s.mwi
  cfg : t.cfg = s.cfg
  bytes : SameBytes s t
  inputs : SameInputs s t

/-- The bank of leg `z` as `DO_SWAP(x, y)` finds it when it exchanges: with Real in the swap, the discarded spill has given
Real its linear mode back (spec/41_subchannel_mux.md R197). -/
def bankBeforeSwap (x y z : Leg) (s : State) : Bank :=
  if (x = .r ∨ y = .r) ∧ z = .r then { s.banks.real with linear := linearAfterDiscard s } else s.bank z

/-- The MWI engine may start on this line (spec/45_mwi.md R342), once a notification is pending and sending is enabled. -/
structure QuietForMwi (s : State) : Prop where
  inactive : s.mwi.st.isActive = false
  idle : s.line.st = .idle
  unowned : s.banks.real.owned = false
  onhook : s.line.hook = false
  noAlarm : s.line.inalarm = false
  noCid : s.rx.st = .off
  noPrering : s.line.prering = false
  noSpill : s.tx.kind = .none

/-- The errors `t` has over `s` are none. -/
def NoError (s t : State) : Prop := t.err = s.err

/-- `t` is `s` after the next answer was taken and one command word was emitted. -/
def spoke (w : ActionWord) (s : State) : State :=
  s.updEnv fun e => { e with answers := e.answers.tail, out := e.out ++ [w] }

/-- `t` is `s` with words emitted. -/
def said (ws : List ActionWord) (s : State) : State := s.updEnv fun e => { e with out := e.out ++ ws }

end Sys2Proof.Machine
end

