-- ==== Sys2Proof/Certificates/Slice0/Obligations.lean ====
section
/-! DEFINITION. The statements about the model, for the provers. -/

section

open Sys2Proof Sys2Proof.Machine
open Sys2Proof.Config (Answer Law)

/-! ### Encoding -/

/-- Every event word decodes to the operation it encodes, from its word and from its stored bytes. -/
def Obligations.DecodeOfEncode : Prop :=
  ∀ (i : Instr) (rest : List Byte),
    decode (encode i) = .ok i ∧ decodeBytes (encodeBytes i ++ rest) = .ok (i, rest)

/-- Words of spec/95_test_vectors.md section 2 and of the rules' examples decode to what they stand for. -/
def Obligations.WordsOfTheSpec : Prop :=
  decode 0x41000000 = .ok .fakeOnhook ∧ decode 0x0C000023 = .ok (.hwDtmfdigit 0x23) ∧
  decode 0x8111FFFF = .ok (.hostCfgwr 0x11 0xFFFF) ∧ decode 0x84010337 = .ok (.hostMemwr 1 3 0x37) ∧
  decode 0x92210000 = .ok (.hostSwap 2 1) ∧ decode 0x96050205 = .ok (.hostMasterset 5 true false 5) ∧
  decode 0xA0010402 = .ok (.hostCall true 4 2) ∧ decode 0xC1000002 = .ok (.timeTick true false)

/-- R109: a word is illegal exactly when `W[31:24]` is in none of the tables; it raises `E_BADEVENT` and is absorbed. The
all-zero word is `HW.NONE`, which does nothing. -/
def Obligations.UndefinedOpcodes : Prop :=
  (∀ (w : Word),
    (undefinedOpcode (slice w 24 8) = true ↔ ∃ e, decode w = .error e) ∧
    ∀ (s : State) (rest : List Word), s.env.events = w :: rest → undefinedOpcode (slice w 24 8) = true →
      step s = .next (raise .badEvent { s with env := { s.env with events := rest } })) ∧
  decode 0 = .ok .hwNone ∧ ∀ s : State, s.line.configured = true → exec .hwNone s = .next s

/-! ### The step -/

/-- A step takes the next word of the queue and runs the operation it decodes to; with an empty queue it changes nothing
(that an empty queue is a step at all is the model's choice, notes/assumptions/3.md). -/
def Obligations.StepRunsWord : Prop :=
  ∀ (s : State),
    (∀ (i : Instr) (w : Word) (rest : List Word), s.env.events = w :: rest → decode w = .ok i →
      step s = exec i { s with env := { s.env with events := rest } }) ∧
    (∀ i : Instr, step (s.withFetchWord 32 (encode i).toNat) = exec i s) ∧
    (s.env.events = [] → step s = .next s)

/-- R81, R83: a step takes exactly the first word of the queue, and its action words follow all earlier ones. -/
def Obligations.OneWordPerStep : Prop :=
  ∀ (s t : State) (w : Word) (rest : List Word), s.env.events = w :: rest → step s = .next t →
    t.env.events = rest ∧ s.env.out <+: t.env.out

/-! ### Invariants -/

/-- The reset state (R450, R451) meets every invariant. -/
def Obligations.ResetIsGood : Prop :=
  BankInv State.reset ∧ MemInv State.reset ∧ SpillInv State.reset ∧ QuietInv State.reset ∧ ToneInv State.reset ∧
  MwiInv State.reset ∧ CidInv State.reset ∧ CfgInv State.reset ∧ CallInv State.reset ∧ ConfInv State.reset

/-- R26 (a) to (e): every step keeps the bank invariants; and every step keeps those of the conference registers (R30, R225,
R230 to R233, R237). -/
def Obligations.BankInvKept : Prop :=
  (∀ s t : State, BankInv s → step s = .next t → BankInv t) ∧
  (∀ s t : State, ConfInv s → step s = .next t → ConfInv t)

/-- Every step keeps the memory in its canonical form and lists only bytes that exist (R70). -/
def Obligations.MemInvKept : Prop := ∀ s t : State, MemInv s → step s = .next t → MemInv t

/-- Every step keeps the invariants of the outbound spill. -/
def Obligations.SpillInvKept : Prop := ∀ s t : State, SpillInv s → step s = .next t → SpillInv t

/-- An Idle or Releasing line carries no call, after every step, in states with the bank invariants (`BankInvKept`); and
there at most two legs carry a call, and one alone while the line is Offered. -/
def Obligations.QuietInvKept : Prop :=
  ∀ s t : State, BankInv s → QuietInv s → step s = .next t → QuietInv t ∧ (CallInv s → CallInv t)

/-- A tone plays only while a call is being set up; and (R162, R133) `ST` moves only by the words of the transition table, an
event word that takes no transition of it leaves `ST`, and no tone is left running across a move but the one R163 starts. The
second half is for states with the invariants of `BankInvKept` and `QuietInvKept`, which rule out a call on an Idle line and
two calls on an Offered one. One entry of the table, a flash from InThreeWayDialing to OnHold, is read from R200's pseudocode
(DEDUCED, notes/assumptions/27.md). -/
def Obligations.ToneInvKept : Prop :=
  (∀ s t : State, ToneInv s → step s = .next t → ToneInv t) ∧
  ∀ (s t : State) (w : Word) (rest : List Word), BankInv s → QuietInv s → CallInv s → ToneInv s →
    s.env.events = w :: rest → step s = .next t → t.line.st ≠ s.line.st →
    ∃ i, decode w = .ok i ∧ mayMove s.line.st t.line.st i = true ∧ t.line.tone = toneOnMove s t.line.st i

/-- The MWI engine never works on a line that is not Idle, and an MWI spill exists only while the engine sends it (in states
in which an Idle line carries no call, `QuietInvKept`). -/
def Obligations.MwiInvKept : Prop := ∀ s t : State, QuietInv s → MwiInv s → step s = .next t → MwiInv t

/-- Every step keeps the invariants of the Caller-ID receiver. -/
def Obligations.CidInvKept : Prop := ∀ s t : State, CidInv s → step s = .next t → CidInv t

/-- Every step keeps the configuration legal (R112). -/
def Obligations.CfgInvKept : Prop := ∀ s t : State, CfgInv s → step s = .next t → CfgInv t

/-! ### Rules about every word -/

/-- R26 (f): every `SETHOOK` and `DIAL` of a step names the resource of Real on the Line itself. -/
def Obligations.LoopCommandsNameReal : Prop :=
  ∀ (s t : State), step s = .next t → ∀ w ∈ newWords s t, isLoopCommand w = true →
    wordH w = handleField t.banks.real.res ∧ wordLine w = lineId t

/-- R34, R412: every error is logged: `ERRCNT` counts the `ERRIND` words, `LASTERR` and `LASTERR_CLASS` hold the last one,
and nothing but `RESET` writes them otherwise. -/
def Obligations.ErrorsLogged : Prop :=
  ∀ (s t : State) (w : Word) (rest : List Word), s.env.events = w :: rest → decode w ≠ .ok .hostReset → step s = .next t →
    t.err.errcnt.toNat = min (s.err.errcnt.toNat + ((newWords s t).filter isErrInd).length) 65535 ∧
    (∀ e, ((newWords s t).filter isErrInd).getLast? = some e →
      t.err.lasterr = errCodeOf e ∧ t.err.lasterrClass = slice e 4 3) ∧
    (((newWords s t).filter isErrInd).getLast? = none →
      t.err.lasterr = s.err.lasterr ∧ t.err.lasterrClass = s.err.lasterrClass)

/-- R87, R430: a configured Line keeps its configuration and stays configured until `RESET`; only `CFGDONE` configures.
The parameters of the instance are written by no step (notes/assumptions/8.md). -/
def Obligations.ConfigLocked : Prop :=
  ∀ (s t : State) (w : Word) (rest : List Word), s.env.events = w :: rest → step s = .next t →
    t.par = s.par ∧
    (s.line.configured = true → decode w ≠ .ok .hostReset → t.cfg = s.cfg ∧ t.line.configured = true) ∧
    (s.line.configured = false → t.line.configured = true → decode w = .ok .hostCfgdone)

/-- `NOW` runs only with the ticks of a configured Line, `TICK_MS` each, and goes back to 0 only at `RESET` (R12, R360).
No tick takes a call from a leg but by hanging up the whole line: held legs are never timed out (R468). -/
def Obligations.ClockMoves : Prop :=
  ∀ (s t : State) (w : Word) (rest : List Word), s.env.events = w :: rest → step s = .next t →
    match decode w with
    | .ok (.timeTick _ _) =>
      t.line.now = (if s.line.configured = true then s.line.now + BitVec.ofNat 32 s.par.tickMs else s.line.now) ∧
      ∀ x : Leg, (s.bank x).owned = true →
        ((t.bank x).owned = true ∧ (t.bank x).owner = (s.bank x).owner ∧ (t.bank x).res = (s.bank x).res) ∨
        (s.line.st ≠ .releasing ∧ t.line.st = .releasing)
    | .ok .hostReset => t.line.now = 0
    | _ => t.line.now = s.line.now

/-- R431: the two host buffers are written by `MEMWR` and `RESET` alone. -/
def Obligations.HostBuffersAreTheHosts : Prop :=
  ∀ (s t : State) (w : Word) (rest : List Word) (sp : Space) (a : Nat), s.env.events = w :: rest → step s = .next t →
    sp = .cidmsg ∨ sp = .dialbuf → a < sp.size s.par → a < 65536 → rd sp a t ≠ rd sp a s →
    (∃ space addr data, decode w = .ok (.hostMemwr space addr data)) ∨ decode w = .ok .hostReset

/-- Admission (R130, R134, R386, R430): before `CFGDONE` only the six setup words act, `TIME` words are ignored, every other
word raises `E_NOTCONFIGURED`; the alarm and Releasing absorb line events with `E_UNEXPECTED`; `NONE` does nothing. -/
def Obligations.Admission : Prop :=
  ∀ (i : Instr) (s : State),
    (s.line.configured = false → isTimeWord i = true → exec i s = .next s) ∧
    (s.line.configured = false → isTimeWord i = false → isSetupWord i = false → exec i s = .next (raise .notConfigured s)) ∧
    (s.line.configured = true → s.line.inalarm = true → isMaskableEvent i = true ∨ isOnhook i = true →
      exec i s = .next (raise .unexpected s)) ∧
    (s.line.configured = true → s.line.inalarm = false → s.line.st = .releasing → isMaskableEvent i = true →
      exec i s = .next (raise .unexpected s)) ∧
    (s.line.configured = true → i = .hwNone ∨ i = .fakeNone → exec i s = .next s)

/-- R412: `raise` writes the three error registers, emits one `ERRIND` with the code and its class, and nothing else. -/
def Obligations.RaiseIsTheWholeTrap : Prop :=
  ∀ (e : ErrCode) (s : State),
    raise e s =
      { s with
        err := { lasterr := e.code, lasterrClass := slice e.code 4 3,
                 errcnt := if s.err.errcnt = 0xFFFF then 0xFFFF else s.err.errcnt + 1 }
        env := { s.env with
          out := s.env.out ++ [2#4 ++ 0x05#8 ++ lineId s ++ 0xF#4 ++ 0#8 ++ (0#21 ++ slice e.code 4 3 ++ e.code)] } }

/-! ### Hook events -/

/-- R140, R136: `ONHOOK` hangs up an established call without a CallWaiting leg, a seized line, and a dialled call; in Idle
and Releasing it only clears `HOOK`; while the line rings it also raises `E_UNEXPECTED`. (That `HOOK` is cleared together with
the error is R140's pseudocode against the general word of R413: DEDUCED, notes/assumptions/14.md.) -/
def Obligations.OnhookWord : Prop :=
  ∀ (s : State) (i : Instr), i = .hwOnhook ∨ i = .fakeOnhook → s.line.configured = true → s.line.inalarm = false →
    ((s.line.st.isCall = true ∧ s.banks.cw.owned = false) ∨
        (s.line.st = .offered ∧ ((s.line.calldir = .inbound ∧ s.line.hook = true) ∨ s.line.calldir = .outDial)) →
      ∃ t, exec i s = .next t ∧ HungUp .onhook none s t ∧ (Accepting s → NoError s t)) ∧
    (s.line.st = .idle ∨ s.line.st = .releasing →
      exec i s = .next (s.updLine fun l => { l with hook := false })) ∧
    (s.line.st = .offered → s.line.calldir = .outRing ∨ (s.line.calldir = .inbound ∧ s.line.hook = false) →
      exec i s = .next (raise .unexpected (s.updLine fun l => { l with hook := false })))

/-- R141: `ONHOOK` with a CallWaiting leg owned: the current call is dropped, the other moves to Real, its resource rings. -/
def Obligations.OnhookRingsBack : Prop :=
  ∀ (s : State) (i : Instr), i = .hwOnhook ∨ i = .fakeOnhook → LineReady s → s.line.st.isCall = true →
    s.banks.cw.owned = true →
    ∃ t, exec i s = .next t ∧
      t.line =
        { s.line with
          st := .offered, hook := false, calldir := .outRing, ringing := true,
          ringt := ticksOf s.par (cfgRingTimeoutMs s.cfg), answered := false, flashV := false, tone := .none, cwrepeat := 0,
          postwin := 0, curleg := none } ∧
      t.banks.real.logical =
        { s.banks.cw with
          pend := if s.line.st = CallState.onHold then PendBit.needRinging.mask ||| PendBit.needUnhold.mask
                  else PendBit.needRinging.mask }.logical ∧
      t.banks.cw = Bank.empty ∧ t.banks.tw = (if s.banks.tw.alloc then Bank.empty else s.banks.tw) ∧
      SpillGone s t ∧ CallFrame s t ∧
      indWord (lineId s) 0 (.hangup s.banks.real.owner .onhook) ∈ newWords s t ∧
      lrWord (lineId s) (handleField s.banks.cw.res) (.setHook .ring) ∈ newWords s t ∧ (Accepting s → NoError s t)

/-- R143: `OFFHOOK` on an Idle line (no MWI sequence running): the station seizes it. -/
def Obligations.OffhookSeizes : Prop :=
  ∀ (s : State) (i : Instr), i = .hwOffhook ∨ i = .fakeOffhook → LineReady s → s.line.st = .idle →
    s.mwi.st.isActive = false →
    ∃ t, exec i s = .next t ∧
      t.line =
        { s.line with
          st := .offered, hook := true, calldir := .inbound, ringing := false, ringt := 0, prering := false,
          curleg := some .r, tone := .dialtone } ∧
      t.banks = { s.banks with real := { s.banks.real with owned := true, owner := 0 } } ∧
      t.rx = CidRxRegs.reset ∧ t.conf = s.conf ∧ t.tx = s.tx ∧ t.mwi = s.mwi ∧ t.cfg = s.cfg ∧ SameBytes s t ∧
      SameInputs s t ∧
      (Accepting s → s.line.tone = .none → NoError s t ∧
        newWords s t = [lrWord (lineId s) (handleField s.banks.real.res) (.tonePlay .dialtone),
          indWord (lineId s) 0 .spawnSetup])

/-- R143, R144, R137: `OFFHOOK` or `RINGOFFHOOK` answers a call that rings the station, and on a trunk one dialled out; a
station that is off-hook already, a dialled call on another line and a call that is no call of the station's raise
`E_UNEXPECTED`, and nothing else happens. -/
def Obligations.OffhookAnswers : Prop :=
  ∀ (s : State) (i : Instr), i = .hwOffhook ∨ i = .fakeOffhook ∨ i = .hwRingoffhook ∨ i = .fakeRingoffhook →
    LineReady s → s.mwi.st.isActive = false →
    (s.line.st.isCall = true → exec i s = .next (raise .unexpected s)) ∧
    (s.line.st = .offered → s.line.calldir = .none ∨ (s.line.calldir = .inbound ∧ s.line.hook = true) ∨
        (s.line.calldir = .outDial ∧ familyOf s.cfg ≠ .trunk) →
      exec i s = .next (raise .unexpected s)) ∧
    (s.line.st = .offered → s.line.calldir = .inbound → isOffhook i = true →
      exec i s = .next (raise .unexpected s)) ∧
    (s.line.st = .offered → s.line.calldir = .outRing →
      ∃ t, exec i s = .next t ∧
        t.line =
          { s.line with
            st := .active, hook := true, tone := .none, answered := true, answerT := s.line.now, ringt := 0,
            ringing := false, curleg := some .r, postwin := 0 } ∧
        t.banks.real.logical =
          { s.banks.real with
            pend := s.banks.real.pend ||| PendBit.needAnswer.mask, linear := linearAfterDiscard s }.logical ∧
        t.banks.cw.logical = s.banks.cw.logical ∧ t.banks.tw.logical = s.banks.tw.logical ∧
        SpillGone s t ∧ CallFrame s t ∧ (Accepting s → NoError s t)) ∧
    (s.line.st = .offered → s.line.calldir = .outDial → familyOf s.cfg = .trunk →
      ∃ t, exec i s = .next t ∧
        t.line =
          { s.line with
            st := .active, hook := true, tone := .none, answered := true, answerT := s.line.now, ringt := 0,
            ringing := false, curleg := some .r } ∧
        t.banks.real.logical = { s.banks.real with pend := s.banks.real.pend ||| PendBit.needAnswer.mask }.logical ∧
        t.banks.cw.logical = s.banks.cw.logical ∧ t.banks.tw.logical = s.banks.tw.logical ∧
        t.tx = s.tx ∧ t.conf.logical = s.conf.logical ∧ CallFrame s t ∧ (Accepting s → NoError s t))

/-- R144, R145, R150: a ring burst. The first one offers the line's call to the host; a further one reloads the ring budget
and counts; `RINGBEGIN` where the line does not ring is refused. (`CIDRX_TO` is loaded with `CID_TIMEOUT_MS` as it acts, at
most 4080 ms, R112; that the bound acts where the counter is loaded is DEDUCED, notes/assumptions/9.md.) -/
def Obligations.RingBursts : Prop :=
  ∀ (s : State) (i : Instr), i = .hwRingbegin ∨ i = .fakeRingbegin ∨ i = .hwRingoffhook ∨ i = .fakeRingoffhook →
    LineReady s →
    (s.line.st = .idle → s.mwi.st.isActive = false →
      ∃ t, exec i s = .next t ∧
        t.line =
          { s.line with
            st := .offered, tone := .none, calldir := .inbound, ringing := true, curleg := none, prering := false,
            ringt := ticksOf s.par (cfgRingTimeoutMs s.cfg) } ∧
        t.banks = { s.banks with real := { s.banks.real with owned := true, owner := 0 } } ∧
        t.rx.ringcnt = 1 ∧ t.rx.lastringT = s.line.now ∧
        (hasFeature s.cfg .cidRx = true → cidStartOf s.cfg = .ring → hasFeature s.cfg .dring = false →
          t.rx.st = .decoding ∧ t.rx.timeout = ticksOf s.par (cfgCidTimeoutMs s.cfg) ∧ t.rx.cidValid = false) ∧
        (hasFeature s.cfg .cidRx = false → hasFeature s.cfg .dring = false → s.rx.st = .off → s.line.hook = false →
          t.rx.resultSent = true ∧ indWord (lineId s) 0 (.cidResult s.rx.cidValid 0xFF) ∈ newWords s t) ∧
        indWord (lineId s) 0 .spawnSetup ∈ newWords s t ∧
        t.conf = s.conf ∧ t.tx = s.tx ∧ t.mwi = s.mwi ∧ t.cfg = s.cfg ∧ SameBytes s t ∧ SameInputs s t) ∧
    (s.line.st = .offered → s.line.calldir = .inbound → s.line.hook = false → s.mwi.st.isActive = false →
      ∃ t, exec i s = .next t ∧
        t.line = { s.line with ringt := ticksOf s.par (cfgRingTimeoutMs s.cfg) } ∧
        t.rx.ringcnt = (if s.rx.ringcnt = 0xFF then 0xFF else s.rx.ringcnt + 1) ∧ t.rx.lastringT = s.line.now ∧
        t.banks = s.banks ∧ t.conf = s.conf ∧ t.tx = s.tx ∧ t.mwi = s.mwi ∧ t.cfg = s.cfg ∧ SameBytes s t ∧
        SameInputs s t) ∧
    (isRingbegin i = true → s.line.st ≠ .idle →
      ¬ (s.line.st = .offered ∧ s.line.calldir = .inbound ∧ s.line.hook = false) →
      exec i s = .next (raise .unexpected s))

/-! ### Flashes -/

/-- R200, R201, scenario A: with a CallWaiting leg owned, a flash swaps it with Real, holds the former Real, and cancels the
repeat-callwaiting timer. It does so from InThreeWayDialing too, where the move to OnHold is not in R162's table and is read
from R200's pseudocode (DEDUCED, notes/assumptions/27.md). -/
def Obligations.FlashSwapsWaitingCall : Prop :=
  ∀ (s : State) (i : Instr), i = .hwWinkflash ∨ i = .fakeWinkflash → LineReady s → familyOf s.cfg = .loop →
    s.line.st.isCall = true → s.banks.real.owned = true → s.banks.cw.owned = true →
    ∃ t, exec i s = .next t ∧
      t.line =
        { s.line with
          st := .onHold, flashT := s.line.now, flashV := true, cwrepeat := 0, postwin := 0, tone := .none,
          curleg := some .r } ∧
      t.banks.real.logical =
        { s.banks.cw with
          pend := s.banks.real.pend |||
            (if s.line.st = CallState.onHold then PendBit.needUnhold.mask else PendBit.needAnswer.mask) }.logical ∧
      t.banks.cw.logical =
        { s.banks.real with
          pend := s.banks.cw.pend ||| PendBit.needHold.mask, linear := linearAfterDiscard s }.logical ∧
      t.banks.tw.logical = s.banks.tw.logical ∧
      SpillGone s t ∧ CallFrame s t ∧ (Accepting s → NoError s t)

/-- R200, R204, R191, scenario B: the three-way build; where `OPEN` is refused the call is left undisturbed (R415). A flash
with no call in progress, without the feature, or on a held line raises `E_UNEXPECTED`; a ThreeWay leg in use without a call
conflicts. -/
def Obligations.FlashBuildsThreeWay : Prop :=
  ∀ (s : State) (i : Instr), i = .hwWinkflash ∨ i = .fakeWinkflash → LineReady s → familyOf s.cfg = .loop →
    (s.banks.real.owned = false ∨ s.line.st = .idle ∨ s.line.st = .offered → exec i s = .next (raise .unexpected s)) ∧
    (s.line.st.isCall = true → s.banks.real.owned = true → s.banks.cw.owned = false → s.banks.tw.owned = false →
      hasFeature s.cfg .threeWay = false ∨ s.line.st ≠ .active → exec i s = .next (raise .unexpected s)) ∧
    (s.line.st = .active → s.banks.real.owned = true → s.banks.cw.owned = false → s.banks.tw.owned = false →
      hasFeature s.cfg .threeWay = true → s.banks.tw.alloc = true → exec i s = .next (raise .conflict s)) ∧
    (s.line.st = .active → s.banks.real.owned = true → s.banks.cw.owned = false → s.banks.tw.owned = false →
      hasFeature s.cfg .threeWay = true → s.banks.tw.alloc = false →
      (AcceptingNext s →
        ∃ t, exec i s = .next t ∧
          t.line =
            { s.line with
              st := .threeWayDialing, flashT := s.line.now, flashV := true, postwin := 0, tone := .dialrecall,
              curleg := some .r } ∧
          t.banks.real.logical =
            { Bank.empty with alloc := true, res := freeHandle s, owned := true, pend := s.banks.real.pend } ∧
          t.banks.tw.logical =
            { s.banks.real with pend := PendBit.needHold.mask, linear := linearAfterDiscard s }.logical ∧
          t.banks.cw.logical = s.banks.cw.logical ∧ SpillGone s t ∧ CallFrame s t ∧
          (newWords s t).head? = some (lrWord (lineId s) (handleField (freeHandle s)) .openLine) ∧
          lrWord (lineId s) (handleField (freeHandle s)) (.tonePlay .dialrecall) ∈ newWords s t ∧
          indWord (lineId s) 0 .spawnSetup ∈ newWords s t ∧ (Accepting s → NoError s t)) ∧
      (Refusing s →
        exec i s = .next (raise .lrOpen (spoke (lrWord (lineId s) (handleField (freeHandle s)) .openLine) s))))

/-- R202, R203, R205, R206, R207: a flash on a line with a ThreeWay leg. Less than `MIN_MS_SINCE_FLASH` after the last one it
is a bounce and hangs up both legs; otherwise it merges, drops the last party, or undoes the incomplete three-way. (The age of a
flash is R12's `since`, also above 2^31 ms: DEDUCED, notes/assumptions/28.md.) -/
def Obligations.FlashOnThreeWayLeg : Prop :=
  ∀ (s : State) (i : Instr), i = .hwWinkflash ∨ i = .fakeWinkflash → LineReady s → familyOf s.cfg = .loop →
    s.line.st.isCall = true → s.banks.real.owned = true → s.banks.cw.owned = false → s.banks.tw.owned = true →
    let bounce := s.line.flashV = true ∧ (s.line.now - s.line.flashT).toNat < s.par.minMsSinceFlash
    (bounce → ∃ t, exec i s = .next t ∧ HungUp .bounce none s t ∧ (Accepting s → NoError s t)) ∧
    (¬ bounce → s.line.st ≠ .threeWayDialing → s.banks.tw.in3way = false →
      ∃ t, exec i s = .next t ∧
        t.line =
          { s.line with
            flashT := s.line.now, flashV := true, postwin := 0, tone := .none, curleg := some .r } ∧
        t.banks.real.logical =
          { s.banks.tw with in3way := true, pend := s.banks.real.pend ||| PendBit.needUnhold.mask }.logical ∧
        t.banks.tw.logical =
          { s.banks.real with
            in3way := true, pend := s.banks.tw.pend, linear := linearAfterDiscard s }.logical ∧
        t.banks.cw.logical = s.banks.cw.logical ∧ SpillGone s t ∧ CallFrame s t ∧ (Accepting s → NoError s t)) ∧
    (¬ bounce → s.line.st ≠ .threeWayDialing → s.banks.tw.in3way = true →
      ∃ t, exec i s = .next t ∧
        t.line = { s.line with flashT := s.line.now, flashV := true } ∧
        t.banks.real.logical = { s.banks.real with in3way := false }.logical ∧ t.banks.tw = Bank.empty ∧
        t.banks.cw.logical = s.banks.cw.logical ∧ t.tx = s.tx ∧ t.conf.logical = s.conf.logical ∧ CallFrame s t ∧
        indWord (lineId s) 2 (.hangup s.banks.tw.owner .dropped) ∈ newWords s t ∧ (Accepting s → NoError s t)) ∧
    (¬ bounce → s.line.st = .threeWayDialing →
      ∃ t, exec i s = .next t ∧
        t.line =
          { s.line with
            st := .active, flashT := s.line.now, flashV := true, postwin := 0, tone := .none, curleg := some .r } ∧
        t.banks.real.logical =
          { s.banks.tw with pend := s.banks.real.pend ||| PendBit.needUnhold.mask }.logical ∧
        t.banks.tw = Bank.empty ∧ t.banks.cw.logical = s.banks.cw.logical ∧ SpillGone s t ∧ CallFrame s t ∧
        indWord (lineId s) 0 (.hangup s.banks.real.owner .undo) ∈ newWords s t ∧ (Accepting s → NoError s t))

/-- R148, R149, R153: a wink on a trunk completes the deferred dial, or is passed to the owner; on a radio line it does
nothing; `DIALCOMPLETE` ends the dialling and tells the owner that the far end rings. -/
def Obligations.WinkAndDialcomplete : Prop :=
  ∀ (s : State) (i : Instr), LineReady s →
    (i = .hwWinkflash ∨ i = .fakeWinkflash →
      (familyOf s.cfg = .trunk → s.line.dialPending = true → AcceptingNext s →
        exec i s = .next ((spoke (lrWord (lineId s) (handleField s.banks.real.res) (.dial s.line.diallen)) s).updLine
          fun l => { l with dialPending := false, dialing := true })) ∧
      (familyOf s.cfg = .trunk → s.line.dialPending = true → Refusing s →
        exec i s = .next (raise .lrCtrl
          (spoke (lrWord (lineId s) (handleField s.banks.real.res) (.dial s.line.diallen)) s))) ∧
      (familyOf s.cfg = .trunk → s.line.dialPending = false → s.banks.real.owned = true → s.line.st.isCall = true →
        exec i s = .next { s with
          banks := { s.banks with
            real := { s.banks.real with pend := s.banks.real.pend ||| PendBit.needFlash.mask } } }) ∧
      (familyOf s.cfg = .trunk → s.line.dialPending = false → s.banks.real.owned = false ∨ s.line.st.isCall = false →
        exec i s = .next (raise .unexpected s)) ∧
      (familyOf s.cfg = .radio → exec i s = .next s)) ∧
    (i = .hwDialcomplete ∨ i = .fakeDialcomplete →
      (s.line.dialing = true →
        exec i s = .next { s with
          line := { s.line with dialing := false }
          banks := if s.line.st = .offered ∧ s.line.calldir = .outDial then
              { s.banks with real := { s.banks.real with pend := s.banks.real.pend ||| PendBit.needRinging.mask } }
            else s.banks }) ∧
      (s.line.dialing = false → exec i s = .next (raise .unexpected s)))

/-! ### The other line events -/

/-- R152, R345, R256: `RINGOFF` ends the MWI alert, starts a waiting Caller-ID spill, or does nothing. -/
def Obligations.RingoffWord : Prop :=
  ∀ (s : State) (i : Instr), i = .hwRingoff ∨ i = .fakeRingoff → LineReady s →
    (s.mwi.st = .alertWait →
      ∃ t, exec i s = .next t ∧
        t.mwi = { s.mwi with st := .pause, deadline := s.line.now + BitVec.ofNat 32 s.par.mwiPauseMs } ∧
        t.line = s.line ∧ t.banks = s.banks ∧ t.conf = s.conf ∧ t.tx = s.tx ∧ t.rx = s.rx ∧ t.cfg = s.cfg ∧
        SameBytes s t ∧ SameInputs s t ∧
        (newWords s t).head? = some (lrWord (lineId s) (handleField s.banks.real.res) (.setHook .ringOff)) ∧
        (Accepting s → NoError s t)) ∧
    (s.mwi.st ≠ .alertWait → s.line.st = .offered → s.line.calldir = .outRing → s.tx.kind = .cid → s.tx.go = false →
      ∃ t, exec i s = .next t ∧
        t.tx = { s.tx with go := true, linSaved := s.banks.real.linear } ∧ t.conf.confSusp = true ∧
        (s.conf.confSusp = false → t.conf.saveconf = s.banks.real.cur) ∧
        t.banks.real.logical = { s.banks.real with linear := false }.logical ∧
        t.banks.cw.logical = s.banks.cw.logical ∧ t.banks.tw.logical = s.banks.tw.logical ∧
        t.conf.logical = { s.conf with confSusp := t.conf.confSusp, saveconf := t.conf.saveconf }.logical ∧
        t.line = s.line ∧ CallFrame s t ∧ (Accepting s → NoError s t)) ∧
    (s.mwi.st ≠ .alertWait →
      ¬ (s.line.st = .offered ∧ s.line.calldir = .outRing ∧ s.tx.kind = .cid ∧ s.tx.go = false) →
      exec i s = .next s)

/-- R160, R161, R275, R276, R284: a digit of the subscriber goes to the owner of the call, and raises `E_UNEXPECTED` where no
call takes it; a DTMF digit is dropped in the suppression window, and belongs to the Caller-ID decoder while the DTMF decoder
runs (not while an FSK decode runs). That decoder waits for the start marker, gathers at most `NUM_MAX` digits, commits them
to `CIDOUT` at the stop marker and fails on another character; then the result is told. A non-digit raises `E_BADARG`. (The
markers are parameters of the instance, notes/assumptions/8.md.) -/
def Obligations.DigitWords : Prop :=
  ∀ (s : State) (d : Byte) (i : Instr), LineReady s →
    let untaken := s.banks.real.owned = false ∨ s.line.hook = false ∨ s.line.st = .idle
    (i = .hwPulsedigit d ∨ i = .fakePulsedigit d →
      (wfPulse d = false → exec i s = .next (raise .badArg s)) ∧
      (wfPulse d = true → s.banks.real.owned = true → s.line.hook = true → s.line.st ≠ .idle →
        exec i s = .next (said [indWord (lineId s) 0 (.digit d true)] s)) ∧
      (wfPulse d = true → untaken → exec i s = .next (raise .unexpected s))) ∧
    (i = .hwDtmfdigit d ∨ i = .fakeDtmfdigit d →
      (wfDtmf d = false → exec i s = .next (raise .badArg s)) ∧
      (wfDtmf d = true → s.line.postwin ≠ 0 → exec i s = .next s) ∧
      (wfDtmf d = true → s.line.postwin = 0 → rxDtmf s.cfg = false ∨ s.rx.st ≠ .decoding →
        (s.banks.real.owned = true → s.line.hook = true → s.line.st ≠ .idle →
          exec i s = .next (said [indWord (lineId s) 0 (.digit d false)] s)) ∧
        (untaken → exec i s = .next (raise .unexpected s))) ∧
      (wfDtmf d = true → s.line.postwin = 0 → s.rx.st = .decoding → rxDtmf s.cfg = true →
        (s.rx.dtmfOpen = false →
          exec i s = .next (if d = s.par.codec.startMarker then { s with rx := { s.rx with dtmfOpen := true } } else s)) ∧
        (s.rx.dtmfOpen = true → d = s.par.codec.stopMarker → s.par.ok →
          ∃ t, exec i s = .next t ∧ t.rx = concludedRx .done true s ∧
            Committed (rdList .dtmfacc 0 s.rx.dtmflen.toNat s) [] t ∧ SameBytesBut .cidout 0 34 s t ∧
            newWords s t = concludedWords true s ∧
            { t with rx := s.rx, mem := s.mem, env := { t.env with out := s.env.out } } = s) ∧
        (s.rx.dtmfOpen = true → d ≠ s.par.codec.stopMarker → wfPulse d = true → s.rx.dtmflen.toNat < s.par.numMax →
          ∃ t, exec i s = .next t ∧ t.rx = { s.rx with dtmflen := s.rx.dtmflen + 1 } ∧
            rd .dtmfacc s.rx.dtmflen.toNat t = d ∧
            SameBytesBut .dtmfacc s.rx.dtmflen.toNat (s.rx.dtmflen.toNat + 1) s t ∧
            { t with mem := s.mem } = { s with rx := t.rx }) ∧
        (s.rx.dtmfOpen = true → d ≠ s.par.codec.stopMarker → wfPulse d = true → s.par.numMax ≤ s.rx.dtmflen.toNat →
          exec i s = .next s) ∧
        (s.rx.dtmfOpen = true → d ≠ s.par.codec.stopMarker → wfPulse d = false →
          ∃ t, exec i s = .next t ∧ t.rx = concludedRx .fail s.rx.cidValid s ∧ t.err = (raise .cidFail s).err ∧
            newWords s t = indWord (lineId s) 0xF (.error .cidFail) :: concludedWords s.rx.cidValid s ∧
            { t with rx := s.rx, err := s.err, env := { t.env with out := s.env.out } } = s)))

/-- R155, with R137, R136 and R270: what a polarity reversal does in each state; a reversal exactly at the guard delay, and
every other case, only sets `POL`. (`CIDRX_TO` is loaded with `CID_TIMEOUT_MS` as it acts, at most 4080 ms, R112; that the
bound acts where the counter is loaded is DEDUCED, notes/assumptions/9.md. The age of an answer is R12's `since`, also above
2^31 ms: DEDUCED, notes/assumptions/28.md.) -/
def Obligations.PolarityWord : Prop :=
  ∀ (s : State) (i : Instr), i = .hwPolarity ∨ i = .fakePolarity → LineReady s →
    (s.line.st = .idle → hasFeature s.cfg .cidRx = true → cidStartOf s.cfg = .polarity → s.mwi.st.isActive = false →
      exec i s = .next { s with
        line := { s.line with pol := true, prering := true }
        rx := { CidRxRegs.reset with st := .decoding, timeout := ticksOf s.par (cfgCidTimeoutMs s.cfg) } }) ∧
    (s.line.st = .offered → s.line.calldir = .outRing ∨ s.line.calldir = .outDial →
      hasFeature s.cfg .answerOnPol = true →
      ∃ t, exec i s = .next t ∧
        t.line =
          { s.line with
            st := .active, pol := true, tone := .none, answered := true, answerT := s.line.now, ringt := 0,
            ringing := false, curleg := some .r } ∧
        t.banks.real.logical = { s.banks.real with pend := s.banks.real.pend ||| PendBit.needAnswer.mask }.logical ∧
        t.banks.cw.logical = s.banks.cw.logical ∧ t.banks.tw.logical = s.banks.tw.logical ∧
        t.tx = s.tx ∧ t.conf.logical = s.conf.logical ∧ CallFrame s t ∧ (Accepting s → NoError s t)) ∧
    (s.line.st.isCall = true → hasFeature s.cfg .hangupOnPol = true → s.line.answered = true →
      (cfgPolDelayMs s.cfg).toNat < (s.line.now - s.line.answerT).toNat →
      ∃ t, exec i s = .next t ∧ HungUp .polarity none s t ∧ (Accepting s → NoError s t)) ∧
    (¬ (s.line.st = .idle ∧ hasFeature s.cfg .cidRx = true ∧ cidStartOf s.cfg = .polarity ∧ s.mwi.st.isActive = false) →
      ¬ (s.line.st = .offered ∧ (s.line.calldir = .outRing ∨ s.line.calldir = .outDial) ∧
        hasFeature s.cfg .answerOnPol = true) →
      ¬ (s.line.st.isCall = true ∧ hasFeature s.cfg .hangupOnPol = true ∧ s.line.answered = true ∧
        (cfgPolDelayMs s.cfg).toNat < (s.line.now - s.line.answerT).toNat) →
      exec i s = .next (s.updLine fun l => { l with pol := true }))

/-- R159: `NOALARM` ends the alarm and does nothing else, in any state. R158 with R136, where no MWI sequence runs (the others:
`MwiYields`): `ALARM` hangs up the calls of the line. -/
def Obligations.AlarmWords : Prop :=
  ∀ (s : State) (i : Instr), s.line.configured = true →
    (i = .hwAlarm ∨ i = .fakeAlarm → s.mwi.st.isActive = false → s.line.st ≠ .idle → s.line.st ≠ .releasing →
      ∃ t, exec i s = .next t ∧ HungUp .alarm none (s.updLine fun l => { l with inalarm := true }) t ∧
        (Accepting s → NoError s t)) ∧
    (i = .hwAlarm ∨ i = .fakeAlarm → s.mwi.st.isActive = false → s.line.st = .idle ∨ s.line.st = .releasing →
      exec i s = .next { s with
        line := { s.line with
          inalarm := true
          prering := false }
        rx := if s.line.prering = true ∨ s.rx.st ≠ .off then CidRxRegs.reset else s.rx }) ∧
    (i = .hwNoalarm ∨ i = .fakeNoalarm →
      exec i s = .next { s with line := { s.line with inalarm := false } })

/-! ### Configuration and access -/

/-- R380, R112: `CFGWR` writes one register through its mask; a locked configuration, a number out of range and a reserved
value are refused with their errors. -/
def Obligations.CfgwrWord : Prop :=
  ∀ (s : State) (reg : Byte) (value : Half),
    (s.line.configured = false → wfCfg reg value = true →
      ∃ t, exec (.hostCfgwr reg value) s = .next t ∧ { t with cfg := s.cfg } = s ∧
        ∀ n, cfgRead t.cfg n = if n = reg.toNat then value &&& implementedMask reg else cfgRead s.cfg n) ∧
    (s.line.configured = true → exec (.hostCfgwr reg value) s = .next (raise .cfgLocked s)) ∧
    (s.line.configured = false → 0x40 ≤ reg → exec (.hostCfgwr reg value) s = .next (raise .badAddr s)) ∧
    (s.line.configured = false → reg < 0x40 → wfCfg reg value = false →
      exec (.hostCfgwr reg value) s = .next (raise .badArg s))

/-- R381: `CFGDONE` opens Real's resource, applies the settings and starts event processing. -/
def Obligations.CfgdoneWord : Prop :=
  ∀ (s : State),
    (s.line.configured = false → AcceptingNext s →
      ∃ t, exec .hostCfgdone s = .next t ∧ t.line = { s.line with configured := true } ∧ t.banks = s.banks ∧
        t.conf = s.conf ∧ t.tx = s.tx ∧ CallFrame s t ∧
        (newWords s t).filter isCommand =
          [lrWord (lineId s) 0 .openLine, lrWord (lineId s) 0 (.setLaw (cfgLaw s.cfg)),
            lrWord (lineId s) 0 (.setGain (cfgRxGain s.cfg) (cfgTxGain s.cfg) (cfgDrc s.cfg)),
            lrWord (lineId s) 0 (.setEc (cfgEcTaps s.cfg) false)] ∧
        (Accepting s → NoError s t)) ∧
    (s.line.configured = false → Refusing s →
      exec .hostCfgdone s = .next (raise .lrOpen (spoke (lrWord (lineId s) 0 .openLine) s))) ∧
    (s.line.configured = true → exec .hostCfgdone s = .next (raise .cfgLocked s))

/-- R382, R450, R451: `RESET` gives the reset state and emits nothing (the inputs and outputs of the block, which are the
model's own fields, stay: notes/assumptions/2.md; and it is still the same instance, with its parameters:
notes/assumptions/8.md); the reset state's registers have the values of R451: a timing register that of its parameter (R9,
R112), which by default is the number the spec gives. (`HKCNT` is `ticks(MONITOR_TIMEOUT_MS)`, by default 50; that it is so in
other instances is DEDUCED, notes/assumptions/8.md.) -/
def Obligations.ResetWord : Prop :=
  (∀ s : State, exec .hostReset s = .next { State.resetOf s.par with env := s.env }) ∧
  (∀ p : Config.Params,
    let r := State.resetOf p
    r.line =
      { st := .idle, hook := false, ringing := false, pol := false, calldir := .none, inalarm := false, prering := false,
        ringt := 0, now := 0, flashT := 0, flashV := false, answerT := 0, answered := false, guardUntil := 0,
        dialPending := false, dialing := false, diallen := 0, tone := .none, cwrepeat := 0, postwin := 0,
        hkcnt := BitVec.ofNat 8 (p.monitorTimeoutMs / p.tickMs), curleg := none, configured := false } ∧
    r.banks = { real := { Bank.empty with alloc := true, res := 0 }, cw := Bank.empty, tw := Bank.empty } ∧
    (∀ n, cfgRead r.cfg n =
      if n = 0x04 then p.ringTimeoutMs else if n = 0x05 then p.polDelayMs else if n = 0x06 then p.guardMs
      else if n = 0x07 then p.cidTimeoutMs else if n = 0x08 then p.cwRepeatMs else if n = 0x09 then p.cidSuppressMs
      else if n = 0x0A then p.cidcwExpireMs else if n = 0x0B then p.dtmfThresh else 0) ∧
    r.rx.ctx = 0xFF ∧ r.conf.nslaves = 0 ∧ r.conf.masterV = false ∧ r.mwi.st = .null ∧
    r.err = { lasterr := 0, lasterrClass := 0, errcnt := 0 } ∧ ∀ (sp : Space) (a : Nat), rd sp a r = 0) ∧
  State.reset = State.resetOf {} ∧ State.reset.line.hkcnt = 50 ∧
  ∀ n, cfgRead State.reset.cfg n =
    if n = 0x04 then 8000 else if n = 0x05 then 600 else if n = 0x07 then 4000 else if n = 0x08 then 10000
    else if n = 0x09 then 100 else if n = 0x0A then 500 else if n = 0x0B then 0x0200 else 0

/-- R383, R385, R79, R70: `MEMWR` writes one byte of a host buffer and nothing else, and `MEMRD` then reads it; an address
beyond a space, a number without a space, and a write to a space that is not the host's, raise `E_BADADDR`. The sizes are those
of R70, with `SPILL_BYTES`, `DIAL_MAX` and `FRAME_SAMPLES` as parameters of the instance; that the bound of `DIALBUF` moves with
`DIAL_MAX`, where R383 writes 64, is the model's choice (DESIGN CHOICE, notes/assumptions/8.md). -/
def Obligations.BufferWords : Prop :=
  (∀ p : Config.Params, Space.cidmsg.size p = 64 ∧ Space.dialbuf.size p = p.dialMax ∧ Space.spill.size p = p.spillBytes ∧
    Space.rxbuf.size p = p.codec.frameSamples ∧ Space.rxacc.size p = p.spillBytes ∧ Space.dtmfacc.size p = 32 ∧
    Space.cidout.size p = 64) ∧
  (Space.dialbuf.size {} = 64 ∧ Space.spill.size {} = 32768 ∧ Space.rxbuf.size {} = 160 ∧ Space.rxacc.size {} = 32768) ∧
  ∀ (s : State) (space : BitVec 3),
    (∀ (sp : Space), spaceOf space = some sp →
      (∀ addr data : Byte, space ≤ 1 → addr.toNat < sp.size s.par →
        ∃ t, exec (.hostMemwr space addr data) s = .next t ∧ rd sp addr.toNat t = data ∧
          SameBytesBut sp addr.toNat (addr.toNat + 1) s t ∧ { t with mem := s.mem } = s ∧
          exec (.hostMemrd space (addr.setWidth 16)) t = .next (said [indWord (lineId s) 0xF (.memVal data)] t)) ∧
      (∀ addr data : Byte, 1 < space ∨ sp.size s.par ≤ addr.toNat →
        exec (.hostMemwr space addr data) s = .next (raise .badAddr s)) ∧
      (∀ addr : Half, addr.toNat < sp.size s.par →
        exec (.hostMemrd space addr) s = .next (said [indWord (lineId s) 0xF (.memVal (rd sp addr.toNat s))] s)) ∧
      (∀ addr : Half, sp.size s.par ≤ addr.toNat → exec (.hostMemrd space addr) s = .next (raise .badAddr s))) ∧
    (space = 7 →
      (∀ addr data : Byte, exec (.hostMemwr space addr data) s = .next (raise .badAddr s)) ∧
      ∀ addr : Half, exec (.hostMemrd space addr) s = .next (raise .badAddr s))

/-- R384, R37: `RDREG` reports a register and changes nothing; every packed register of R37's table has its fields at their
places, a 32-bit register is read in two halves, and a number that is no register reads 0. -/
def Obligations.RdregWord : Prop :=
  ∀ (s : State) (reg : Byte),
    exec (.hostRdreg reg) s = .next (said [indWord (lineId s) 0xF (.regVal (reg16 reg s) reg)] s) ∧
    (reg < 0x1D → reg16 reg s = cfgRead s.cfg reg.toNat) ∧
    (0x1D ≤ reg ∧ reg < 0x80 ∨ 0xB5 ≤ reg → reg16 reg s = 0) ∧
    slice (reg16 0x80 s) 0 3 = s.line.st.code ∧ slice (reg16 0x80 s) 3 3 = s.line.tone.code ∧
    slice (reg16 0x80 s) 6 2 = curlegCode s.line.curleg ∧ slice (reg16 0x80 s) 8 2 = s.line.calldir.code ∧
    (reg16 0x80 s).getLsbD 10 = s.line.hook ∧ (reg16 0x80 s).getLsbD 11 = s.line.ringing ∧
    (reg16 0x80 s).getLsbD 12 = s.line.pol ∧ (reg16 0x80 s).getLsbD 13 = s.line.prering ∧
    (reg16 0x80 s).getLsbD 14 = s.line.inalarm ∧ (reg16 0x80 s).getLsbD 15 = s.line.configured ∧
    reg16 0x81 s = s.line.ringt ∧ reg16 0x83 s ++ reg16 0x82 s = s.line.now ∧
    reg16 0x85 s ++ reg16 0x84 s = s.line.flashT ∧
    slice (reg16 0x86 s) 0 8 = s.line.diallen ∧ (reg16 0x86 s).getLsbD 8 = s.line.dialPending ∧
    (reg16 0x86 s).getLsbD 9 = s.line.dialing ∧ (reg16 0x86 s).getLsbD 10 = s.line.flashV ∧
    (reg16 0x86 s).getLsbD 11 = s.line.answered ∧ slice (reg16 0x86 s) 12 4 = 0 ∧
    reg16 0x88 s ++ reg16 0x87 s = s.line.answerT ∧ reg16 0x8A s ++ reg16 0x89 s = s.line.guardUntil ∧
    reg16 0x8B s = s.line.cwrepeat ∧ reg16 0x8C s = s.line.postwin ∧ reg16 0x8D s = 0#8 ++ s.line.hkcnt ∧
    slice (reg16 0x8E s) 0 8 = s.err.lasterr ∧ slice (reg16 0x8E s) 8 5 = 0 ∧
    slice (reg16 0x8E s) 13 3 = s.err.lasterrClass ∧ reg16 0x8F s = s.err.errcnt ∧
    (∀ x : Leg,
      let w := reg16 (0x90 + x.code.setWidth 8) s
      w.getLsbD 0 = (s.bank x).alloc ∧ (slice w 1 2).toNat = (s.bank x).res.val ∧ w.getLsbD 3 = (s.bank x).owned ∧
      w.getLsbD 4 = (s.bank x).in3way ∧ w.getLsbD 5 = (s.bank x).linear ∧ slice w 6 7 = (s.bank x).pend ∧
      slice w 13 3 = 0 ∧ reg16 (0x93 + x.code.setWidth 8) s = 0#2 ++ (s.bank x).cur ∧
      reg16 (0xB2 + x.code.setWidth 8) s = 0#8 ++ (s.bank x).owner) ∧
    slice (reg16 0x96 s) 0 8 = s.conf.confno ∧ slice (reg16 0x96 s) 8 2 = 0 ∧ slice (reg16 0x96 s) 10 3 = s.conf.nslaves ∧
    (reg16 0x96 s).getLsbD 13 = s.conf.confSusp ∧ (reg16 0x96 s).getLsbD 14 = s.conf.inconf ∧
    (reg16 0x96 s).getLsbD 15 = s.conf.confnoV ∧ reg16 0x97 s = 0#2 ++ s.conf.saveconf ∧
    slice (reg16 0x98 s) 0 8 = s.conf.masterId ∧ slice (reg16 0x98 s) 8 5 = 0 ∧
    (reg16 0x98 s).getLsbD 13 = s.conf.masterConfnoV ∧ (reg16 0x98 s).getLsbD 14 = s.conf.masterNative ∧
    (reg16 0x98 s).getLsbD 15 = s.conf.masterV ∧ reg16 0x99 s = 0#8 ++ s.conf.masterConfno ∧
    (∀ i : Fin 4,
      let w := reg16 (0x9A + BitVec.ofNat 8 (2 * i.val)) s
      slice w 0 8 = s.conf.slaves[i].id ∧ slice w 8 7 = 0 ∧ w.getLsbD 15 = decide (s.conf.slaves[i].law = .a) ∧
      reg16 (0x9B + BitVec.ofNat 8 (2 * i.val)) s = 0#2 ++ s.conf.slaves[i].cur) ∧
    slice (reg16 0xA2 s) 0 2 = s.tx.kind.code ∧ (reg16 0xA2 s).getLsbD 2 = s.tx.linSaved ∧
    (reg16 0xA2 s).getLsbD 3 = s.tx.go ∧ slice (reg16 0xA2 s) 4 12 = 0 ∧ reg16 0xA3 s = s.tx.len ∧ reg16 0xA4 s = s.tx.rd ∧
    slice (reg16 0xA5 s) 0 3 = s.rx.st.code ∧ slice (reg16 0xA5 s) 3 2 = s.rx.ngap ∧
    (reg16 0xA5 s).getLsbD 5 = s.rx.dtmfOpen ∧ (reg16 0xA5 s).getLsbD 6 = s.rx.cidValid ∧
    (reg16 0xA5 s).getLsbD 7 = s.rx.dringOn ∧ (reg16 0xA5 s).getLsbD 8 = s.rx.dringDone ∧
    (reg16 0xA5 s).getLsbD 9 = s.rx.resultSent ∧ slice (reg16 0xA5 s) 10 6 = 0 ∧ reg16 0xA6 s = s.rx.timeout ∧
    slice (reg16 0xA7 s) 0 8 = s.rx.ringcnt ∧ slice (reg16 0xA7 s) 8 8 = s.rx.settle ∧ reg16 0xA8 s = s.rx.rxlen ∧
    (∀ i : Fin 3, reg16 (0xA9 + BitVec.ofNat 8 i.val) s = s.rx.gap[i]) ∧
    slice (reg16 0xAC s) 0 8 = s.rx.ctx ∧ slice (reg16 0xAC s) 8 8 = s.rx.dtmflen ∧
    slice (reg16 0xAD s) 0 3 = s.mwi.st.code ∧ (reg16 0xAD s).getLsbD 3 = s.mwi.pending ∧
    (reg16 0xAD s).getLsbD 4 = s.mwi.msgs ∧ slice (reg16 0xAD s) 5 11 = 0 ∧
    reg16 0xAF s ++ reg16 0xAE s = s.mwi.deadline ∧ reg16 0xB1 s ++ reg16 0xB0 s = s.rx.lastringT

/-! ### The multiplexer -/

/-- R190, R191: `ALLOC` binds a free leg to the least free handle; a leg in use conflicts; a refused `OPEN` writes nothing. -/
def Obligations.AllocWord : Prop :=
  ∀ (s : State) (leg : BitVec 2) (x : Leg), s.line.configured = true → legOf leg = some x →
    exec (.hostAlloc 3) s = .next (raise .badArg s) ∧
    ((s.bank x).alloc = true → exec (.hostAlloc leg) s = .next (raise .conflict s)) ∧
    ((s.bank x).alloc = false → ∃ h : Handle,
      (∀ y : Leg, (s.bank y).alloc = true → (s.bank y).res ≠ h) ∧
      (∀ k < h, ∃ z : Leg, (s.bank z).alloc = true ∧ (s.bank z).res = k) ∧
      (AcceptingNext s →
        exec (.hostAlloc leg) s = .next ((spoke (lrWord (lineId s) (handleField h) .openLine) s).updBank x
          fun _ => { Bank.empty with alloc := true, res := h })) ∧
      (Refusing s →
        exec (.hostAlloc leg) s = .next (raise .lrOpen (spoke (lrWord (lineId s) (handleField h) .openLine) s))))

/-- R193, R194: `RELEASE` closes a leg other than Real and empties its bank; Real is never released this way. -/
def Obligations.ReleaseWord : Prop :=
  ∀ (s : State) (leg : BitVec 2) (x : Leg), s.line.configured = true → legOf leg = some x →
    exec (.hostRelease 3) s = .next (raise .badArg s) ∧
    (x = .r → exec (.hostRelease leg) s = .next (raise .realRelease s)) ∧
    (x ≠ .r → (s.bank x).alloc = false → exec (.hostRelease leg) s = .next (raise .unexpected s)) ∧
    (x ≠ .r → (s.bank x).alloc = true →
      ∃ t, exec (.hostRelease leg) s = .next t ∧ t.bank x = Bank.empty ∧
        (∀ y : Leg, y ≠ x → (t.bank y).logical = (s.bank y).logical) ∧ t.line = s.line ∧ t.tx = s.tx ∧
        t.conf.logical = s.conf.logical ∧ CallFrame s t ∧
        lrWord (lineId s) (handleField (s.bank x).res) .closeLine ∈ newWords s t ∧ (Accepting s → NoError s t))

/-- R196, R197, R29: `SWAP` of two allocated legs exchanges everything of their banks but `PEND`; with Real in it, it stops
the tone and discards the spill. A leg that is none, on either side, raises `E_BADARG`. -/
def Obligations.SwapWord : Prop :=
  (∀ (s : State) (a b : BitVec 2), s.line.configured = true → legOf a = none ∨ legOf b = none →
    exec (.hostSwap a b) s = .next (raise .badArg s)) ∧
  ∀ (s : State) (a b : BitVec 2) (x y : Leg), s.line.configured = true → legOf a = some x → legOf b = some y →
    (x = y → exec (.hostSwap a b) s = .next s) ∧
    (x ≠ y → (s.bank x).alloc = false ∨ (s.bank y).alloc = false →
      exec (.hostSwap a b) s = .next (raise .unexpected s)) ∧
    (x ≠ y → (s.bank x).alloc = true → (s.bank y).alloc = true →
      ∃ t, exec (.hostSwap a b) s = .next t ∧
        (t.bank x).logical = { bankBeforeSwap x y y s with pend := (s.bank x).pend }.logical ∧
        (t.bank y).logical = { bankBeforeSwap x y x s with pend := (s.bank y).pend }.logical ∧
        (∀ z : Leg, z ≠ x → z ≠ y → (t.bank z).logical = (s.bank z).logical) ∧
        (x = .r ∨ y = .r → t.line = { s.line with tone := .none, postwin := 0 } ∧ SpillGone s t) ∧
        (x ≠ .r → y ≠ .r → t.line = s.line ∧ t.tx = s.tx ∧ t.conf.logical = s.conf.logical) ∧
        CallFrame s t ∧ (Accepting s → NoError s t))

/-- R198: `SWAP` twice restores the bindings of leg to resource and of leg to owner, whatever the device answers; where no
spill's linear mode was to be restored, it restores every field of the banks but the shadows a pass may have written, and
`DO_SWAP` twice restores every field. -/
def Obligations.SwapIsInvolution : Prop :=
  ∀ (s t u : State) (a b : BitVec 2), exec (.hostSwap a b) s = .next t → exec (.hostSwap a b) t = .next u →
    (∀ x : Leg, { (u.bank x).logical with linear := (s.bank x).linear } = (s.bank x).logical) ∧
    (s.tx.linSaved = false → SameBanks s u) ∧
    (∀ x y : Leg, x ≠ y → s.tx.linSaved = false → (doSwap x y (doSwap x y s)).banks = s.banks)

/-! ### Conferencing -/

/-- R221 to R226: after a pass whose commands are all accepted every shadow is the membership R223 and R224 give it (the
Line's own slot, a digital monitor of the single slave, the master's, none while a spill is sent), and the conference number
that of R225; a pass leaves everything but the shadows and the conference number as it was. -/
def Obligations.ReconcileWord : Prop :=
  ∀ (s : State), s.line.configured = true →
    let three := ∃ x : Leg, (s.bank x).alloc = true ∧ (s.bank x).in3way = true
    let own := three ∨ s.conf.nslaves ≠ 0 ∨ s.conf.inconf = true
    let native := ¬ three ∧ s.conf.nslaves = 1 ∧ s.conf.slaves[0].law = cfgLaw s.cfg
    ∃ t, exec .hostReconcile s = .next t ∧ PassFrame s t ∧
      (own → ¬ native → t.conf.confnoV = true ∧ t.conf.confno = lineId s) ∧
      (¬ own → s.conf.masterV = false → t.conf.confnoV = false ∧ t.conf.confno = 0) ∧
      (native ∨ (¬ own ∧ s.conf.masterV = true) → t.conf.confnoV = s.conf.confnoV ∧ t.conf.confno = s.conf.confno) ∧
      (Accepting s → Reconciled t ∧ NoError s t ∧
        (s.banks.real.alloc = true →
          (s.conf.confSusp = true → t.banks.real.cur = descNone) ∧
          (s.conf.confSusp = false → s.conf.masterV = true → s.conf.masterNative = true →
            t.banks.real.cur = descMonitor s.conf.masterId) ∧
          (s.conf.confSusp = false → s.conf.masterV = true → s.conf.masterNative = false → s.conf.masterConfnoV = true →
            t.banks.real.cur = descConf s.conf.masterConfno) ∧
          (s.conf.confSusp = false → s.conf.masterV = false ∨ (s.conf.masterNative = false ∧ s.conf.masterConfnoV = false) →
            (own → ¬ native → t.banks.real.cur = descConf (lineId s)) ∧
            (native → t.banks.real.cur = descMonitor s.conf.slaves[0].id) ∧
            (¬ own → t.banks.real.cur = descNone))) ∧
        (∀ x : Leg, x ≠ .r → (s.bank x).alloc = true →
          (own → ¬ native → (s.bank x).in3way = true → (t.bank x).cur = descConf (lineId s)) ∧
          (native ∨ ¬ own ∨ (s.bank x).in3way = false → (t.bank x).cur = descNone)) ∧
        ∀ i : Fin 4, i.val < s.conf.nslaves.toNat →
          (native → t.conf.slaves[i].cur = descMonitor (lineId s)) ∧
          (¬ native → t.conf.slaves[i].cur = descConf (lineId s)))

/-- R227: if every command of a pass was answered `OK`, a second pass with no topology event between emits no action and
changes no register; otherwise the second pass re-emits exactly the failed commands. (A pass has at most seven commands.) -/
def Obligations.ReconcileIsIdempotent : Prop :=
  ∀ (s t : State), s.line.configured = true → 7 ≤ s.env.answers.length → exec .hostReconcile s = .next t →
    (failedCommands s t = [] → exec .hostReconcile t = .next t) ∧
    ∃ u, exec .hostReconcile t = .next u ∧ (newWords t u).filter isCommand = failedCommands s t

/-- R230, R231: `SLAVEADD` enters a Line once at the end of the list, or gives the entry it has a new law, and is refused for
the Line itself and where the list is full (`N_SLAVES` entries); `SLAVEDEL` takes the slave out of its conference and its entry
out of the list, those above move down, and the last one becomes empty. Of the conference registers nothing else changes but
what the pass writes. -/
def Obligations.SlaveWords : Prop :=
  ∀ (s : State) (line : Byte) (law : Bool), s.line.configured = true →
    let n := s.conf.nslaves.toNat
    let listedAt := fun i => i < 4 ∧ i < n ∧ (slaveAt i s).id = line
    let first := fun i => listedAt i ∧ ∀ j < i, ¬ listedAt j
    let afterPass := fun (c : ConfRegs) (t : State) =>
      t.conf.logical = c.logical ∧ SameBanks s t ∧ t.line = s.line ∧ t.tx = s.tx ∧ CallFrame s t ∧
      (Accepting s → Reconciled t ∧ NoError s t)
    (line = lineId s → exec (.hostSlaveadd line law) s = .next (raise .badArg s)) ∧
    (line ≠ lineId s → (∀ i, ¬ listedAt i) → s.par.nSlaves ≤ n →
      exec (.hostSlaveadd line law) s = .next (raise .slaveFull s)) ∧
    (line ≠ lineId s → (∀ i, ¬ listedAt i) → n < s.par.nSlaves → s.par.nSlaves ≤ 4 →
      ∃ t, exec (.hostSlaveadd line law) s = .next t ∧
        afterPass { s.conf with
          nslaves := s.conf.nslaves + 1
          slaves := Vector.ofFn fun j =>
            if j.val = n then { id := line, law := lawOf law, cur := descNone } else s.conf.slaves[j] } t ∧
        t.conf.nslaves.toNat = n + 1 ∧ (slaveAt n t).id = line ∧ (slaveAt n t).law = lawOf law) ∧
    (∀ i, line ≠ lineId s → first i →
      ∃ t, exec (.hostSlaveadd line law) s = .next t ∧
        afterPass { s.conf with
          slaves := Vector.ofFn fun j =>
            if j.val = i then { s.conf.slaves[j] with law := lawOf law } else s.conf.slaves[j] } t) ∧
    ((∀ i, ¬ listedAt i) → exec (.hostSlavedel line) s = .next (raise .unexpected s)) ∧
    (∀ i, first i →
      ∃ t, exec (.hostSlavedel line) s = .next t ∧
        afterPass { s.conf with
          nslaves := s.conf.nslaves - 1
          slaves := Vector.ofFn fun j =>
            if j.val < i ∨ n ≤ j.val then s.conf.slaves[j]
            else if j.val + 1 = n then { id := 0, law := .mu, cur := descNone }
            else slaveAt (j.val + 1) s } t ∧
        ((slaveAt i s).cur ≠ descNone →
          (newWords s t).head? = some (lrWord line 0xF (.setConf descNone))))

/-- R232, R233, R234, R224: `MASTERSET`, `MASTERCLR` and `INCONF` write their registers and reconcile. -/
def Obligations.MasterAndInconfWords : Prop :=
  ∀ (s : State) (line confno : Byte) (valid native b : Bool), s.line.configured = true →
    (line = lineId s → exec (.hostMasterset line valid native confno) s = .next (raise .badArg s)) ∧
    (line ≠ lineId s →
      ∃ t, exec (.hostMasterset line valid native confno) s = .next t ∧
        t.conf.logical =
          { s.conf with
            masterV := true, masterId := line, masterNative := native, masterConfnoV := valid,
            masterConfno := confno }.logical ∧
        SameBanks s t ∧ t.line = s.line ∧ t.tx = s.tx ∧ CallFrame s t ∧
        (Accepting s → Reconciled t ∧ NoError s t ∧
          (s.banks.real.alloc = true → s.conf.confSusp = false → native = true →
            t.banks.real.cur = descMonitor line) ∧
          (s.banks.real.alloc = true → s.conf.confSusp = false → native = false → valid = true →
            t.banks.real.cur = descConf confno))) ∧
    (∃ t, exec .hostMasterclr s = .next t ∧
      t.conf.logical =
        { s.conf with
          masterV := false, masterId := 0, masterNative := false, masterConfnoV := false, masterConfno := 0 }.logical ∧
      SameBanks s t ∧ t.line = s.line ∧ t.tx = s.tx ∧ CallFrame s t ∧ (Accepting s → Reconciled t ∧ NoError s t)) ∧
    (∃ t, exec (.hostInconf b) s = .next t ∧ t.conf.logical = { s.conf with inconf := b }.logical ∧
      SameBanks s t ∧ t.line = s.line ∧ t.tx = s.tx ∧ CallFrame s t ∧ (Accepting s → Reconciled t ∧ NoError s t))

/-! ### Call control -/

/-- R388, R251: `CALL` rings the station, with the name and number of `CIDMSG` ready as a spill, or dials out on an Idle line;
elsewhere, in alarm, with more than `DIAL_MAX` digits, and where the essential command fails, it is refused. Where the digits
are refused the call stays and its owner is told of the congestion. -/
def Obligations.CallWord : Prop :=
  ∀ (s : State) (n tag : Byte), s.line.configured = true →
    (∀ mode, s.line.st ≠ .idle ∨ s.line.inalarm = true ∨ (mode = true ∧ s.par.dialMax < n.toNat) →
      exec (.hostCall mode n tag) s =
        .next (said [indWord (lineId s) 0xF (.callRefused tag)] (raise .refused s))) ∧
    (∀ mode, s.line.st = .idle → s.line.inalarm = false → (mode = true → n.toNat ≤ s.par.dialMax) →
      s.mwi.st.isActive = false → Refusing s →
      exec (.hostCall mode n tag) s =
        .next (said [indWord (lineId s) 0xF (.callRefused tag)] (raise .lrCtrl
          (spoke (lrWord (lineId s) (handleField s.banks.real.res) (.setHook (if mode = true then .offHook else .ring)))
            s)))) ∧
    (s.line.st = .idle → s.line.inalarm = false → s.mwi.st.isActive = false → AcceptingNext s →
      hasFeature s.cfg .cidTx = false →
      exec (.hostCall false n tag) s =
        .next { spoke (lrWord (lineId s) (handleField s.banks.real.res) (.setHook .ring)) s with
          line := { s.line with
            st := .offered, calldir := .outRing, ringing := true, ringt := ticksOf s.par (cfgRingTimeoutMs s.cfg),
            prering := false, pol := false, curleg := none }
          banks := { s.banks with
            real := { s.banks.real with
              owned := true, owner := tag, pend := s.banks.real.pend ||| PendBit.needRinging.mask } }
          rx := CidRxRegs.reset }) ∧
    (s.line.st = .idle → s.line.inalarm = false → s.mwi.st.isActive = false → AcceptingNext s →
      hasFeature s.cfg .cidTx = true → s.par.ok →
      let p := s.par.codec
      let law := cfgLaw s.cfg
      let num := rdList .cidmsg 1 (min (rd .cidmsg 0 s).toNat s.par.numMax) s
      let name := rdList .cidmsg 18 (min (rd .cidmsg 17 s).toNat s.par.nameMax) s
      let samples :=
        match cidSigOf s.cfg with
        | .bell202 => (Config.waveforms p).synthFsk .bell202 law (fskBits p .cid (mdmf p num name))
        | .v23 => (Config.waveforms p).synthFsk .v23 law (fskBits p .cid (mdmf p num name))
        | .dtmf => dtmfSynth p law ([p.startMarker] ++ num.filter wfPulse ++ [p.stopMarker])
      ∃ t, exec (.hostCall false n tag) s = .next t ∧
        t.line =
          { s.line with
            st := .offered, calldir := .outRing, ringing := true, ringt := ticksOf s.par (cfgRingTimeoutMs s.cfg),
            prering := false, pol := false, curleg := none, postwin := 0 } ∧
        t.banks = { s.banks with
          real := { s.banks.real with
            owned := true, owner := tag, pend := s.banks.real.pend ||| PendBit.needRinging.mask,
            linear := linearAfterDiscard s } } ∧
        t.tx = { SpillRegs.reset with kind := .cid, len := BitVec.ofNat 16 samples.length } ∧ 0 < t.tx.len ∧
        (∀ k, (h : k < samples.length) → rd .spill k t = samples[k]) ∧
        t.conf = { s.conf with confSusp := false, saveconf := descNone } ∧ t.rx = CidRxRegs.reset ∧ t.mwi = s.mwi ∧
        t.cfg = s.cfg ∧ SameBytesBut .spill 0 t.tx.len.toNat s t ∧ SameInputs s t ∧ (Accepting s → NoError s t)) ∧
    (s.line.st = .idle → s.line.inalarm = false → s.mwi.st.isActive = false → AcceptingNext s → n.toNat ≤ s.par.dialMax →
      ∃ t, exec (.hostCall true n tag) s = .next t ∧
        t.line =
          { s.line with
            st := .offered, hook := true, calldir := .outDial, ringing := false, ringt := 0, prering := false,
            pol := false, curleg := some .r, diallen := n, dialPending := t.line.dialPending,
            dialing := t.line.dialing } ∧
        (familyOf s.cfg = .trunk → 0 < n → t.line.dialPending = true ∧ t.line.dialing = s.line.dialing) ∧
        (familyOf s.cfg ≠ .trunk ∨ n = 0 → t.line.dialPending = s.line.dialPending) ∧
        (n = 0 → t.line.dialing = s.line.dialing) ∧
        (Accepting s → familyOf s.cfg ≠ .trunk → 0 < n → t.line.dialing = true ∧
          newWords s t = [lrWord (lineId s) (handleField s.banks.real.res) (.setHook .offHook),
            lrWord (lineId s) (handleField s.banks.real.res) (.dial n)]) ∧
        (∀ rest, s.env.answers = .ok :: .notOk :: rest → familyOf s.cfg ≠ .trunk → 0 < n →
          t.line.dialing = s.line.dialing ∧
          t.banks.real.pend = s.banks.real.pend ||| PendBit.needCongestion.mask ∧ t.err = (raise .lrCtrl s).err ∧
          newWords s t = [lrWord (lineId s) (handleField s.banks.real.res) (.setHook .offHook),
            lrWord (lineId s) (handleField s.banks.real.res) (.dial n), indWord (lineId s) 0xF (.error .lrCtrl)]) ∧
        t.banks =
          { s.banks with
            real := { s.banks.real with owned := true, owner := tag, pend := t.banks.real.pend } } ∧
        (Accepting s ∨ familyOf s.cfg = .trunk ∨ n = 0 → t.banks.real.pend = s.banks.real.pend) ∧
        t.rx = CidRxRegs.reset ∧ t.conf = s.conf ∧ t.tx = s.tx ∧ t.mwi = s.mwi ∧ t.cfg = s.cfg ∧ SameBytes s t ∧
        SameInputs s t ∧ (Accepting s → NoError s t))

/-- R390, R137, R285: `UP` establishes the call on Real: an inbound ring is answered, a call being set up becomes active, the
third party of a three-way build answers; elsewhere, and on another leg, it is absorbed. -/
def Obligations.UpWord : Prop :=
  ∀ (s : State), s.line.configured = true →
    (s.banks.real.owned = true → s.line.st = .offered → s.line.calldir = .inbound → s.line.hook = false →
      AcceptingNext s →
      ∃ t, exec (.hostUp 0) s = .next t ∧
        t.line =
          { s.line with
            st := .active, hook := true, tone := .none, answered := true, answerT := s.line.now, ringt := 0,
            ringing := false, curleg := some .r } ∧
        t.rx.resultSent = true ∧ t.rx.timeout = 0 ∧ t.rx.dringOn = false ∧
        SameBanks s t ∧ t.conf.logical = s.conf.logical ∧ t.tx = s.tx ∧ t.mwi = s.mwi ∧ t.cfg = s.cfg ∧
        SameBytes s t ∧ SameInputs s t) ∧
    (s.banks.real.owned = true → s.line.st = .offered → s.line.calldir = .inbound → s.line.hook = false → Refusing s →
      exec (.hostUp 0) s = .next (raise .lrCtrl
        (spoke (lrWord (lineId s) (handleField s.banks.real.res) (.setHook .offHook)) s))) ∧
    (s.banks.real.owned = true → s.line.st = .offered →
      s.line.calldir = .inbound ∧ s.line.hook = true ∨ s.line.calldir = .outDial →
      ∃ t, exec (.hostUp 0) s = .next t ∧
        t.line =
          { s.line with
            st := .active, tone := .none, answered := true, answerT := s.line.now, ringt := 0, ringing := false,
            curleg := some .r } ∧
        SameBanks s t ∧ t.conf.logical = s.conf.logical ∧ t.tx = s.tx ∧ CallFrame s t ∧ (Accepting s → NoError s t)) ∧
    (s.banks.real.owned = true → s.line.st = .threeWayDialing →
      ∃ t, exec (.hostUp 0) s = .next t ∧
        t.line = { s.line with st := .active, tone := .none, curleg := some .r } ∧
        SameBanks s t ∧ t.conf.logical = s.conf.logical ∧ t.tx = s.tx ∧ CallFrame s t ∧ (Accepting s → NoError s t)) ∧
    (s.banks.real.owned = false ∨ (s.line.st ≠ .offered ∧ s.line.st ≠ .threeWayDialing) ∨
        (s.line.st = .offered ∧ s.line.calldir = .outRing) →
      exec (.hostUp 0) s = .next (raise .unexpected s)) ∧
    exec (.hostUp 1) s = .next (raise .unexpected s) ∧ exec (.hostUp 2) s = .next (raise .unexpected s) ∧
    exec (.hostUp 3) s = .next (raise .badArg s)

/-- R392, R393, R136: `HANGUP R` hands Real to the held or waiting call, or hangs up the line without telling the owner who
asked for it. -/
def Obligations.HangupReal : Prop :=
  ∀ (s : State), s.line.configured = true → s.banks.real.owned = true →
    (s.banks.cw.owned = false → s.banks.tw.owned = false →
      ∃ t, exec (.hostHangup 0) s = .next t ∧ HungUp .dropped (some .r) s t ∧ (Accepting s → NoError s t)) ∧
    (∀ y : Leg, y = .cw ∧ s.banks.cw.owned = true ∨ y = .tw ∧ s.banks.cw.owned = false ∧ s.banks.tw.owned = true →
      ∃ t, exec (.hostHangup 0) s = .next t ∧
        t.line =
          { s.line with st := .active, tone := .none, cwrepeat := 0, postwin := 0, curleg := some .r } ∧
        t.banks.real.logical =
          { s.bank y with
            in3way := false
            pend := if y = Leg.cw then (if s.line.st = CallState.onHold then PendBit.needUnhold.mask else PendBit.needAnswer.mask)
                    else if s.banks.tw.in3way = true then 0 else PendBit.needUnhold.mask }.logical ∧
        t.bank y = Bank.empty ∧ (∀ z : Leg, z ≠ .r → z ≠ y → (t.bank z).logical = (s.bank z).logical) ∧
        SpillGone s t ∧ CallFrame s t ∧ (Accepting s → NoError s t))

/-- R392: `HANGUP CW` drops the waiting or held call; `HANGUP TW` drops the ThreeWay leg, and in a three-way build leaves the
new call as one being set up. -/
def Obligations.HangupOtherLeg : Prop :=
  ∀ (s : State), s.line.configured = true →
    (s.banks.cw.owned = true →
      ∃ t, exec (.hostHangup 1) s = .next t ∧
        t.line =
          { s.line with
            st := if s.line.st = CallState.onHold then .active else s.line.st
            tone := if s.line.st = CallState.onHold then .none else s.line.tone
            cwrepeat := 0
            postwin := if s.tx.kind = SpillKind.cwcid then 0 else s.line.postwin } ∧
        t.banks.cw = Bank.empty ∧ t.banks.tw.logical = s.banks.tw.logical ∧
        t.banks.real.logical =
          { s.banks.real with
            linear := if s.tx.kind = SpillKind.cwcid then linearAfterDiscard s else s.banks.real.linear }.logical ∧
        (s.tx.kind = SpillKind.cwcid → SpillGone s t) ∧
        (s.tx.kind ≠ .cwcid → t.tx = s.tx ∧ t.conf.logical = s.conf.logical) ∧
        CallFrame s t ∧ (Accepting s → NoError s t)) ∧
    (s.banks.tw.owned = true → s.line.st ≠ .threeWayDialing →
      ∃ t, exec (.hostHangup 2) s = .next t ∧ t.line = s.line ∧ t.banks.tw = Bank.empty ∧
        t.banks.real.logical = { s.banks.real with in3way := false }.logical ∧
        t.banks.cw.logical = s.banks.cw.logical ∧ t.tx = s.tx ∧ t.conf.logical = s.conf.logical ∧ CallFrame s t ∧
        (Accepting s → NoError s t)) ∧
    (s.banks.tw.owned = true → s.line.st = .threeWayDialing →
      ∃ t, exec (.hostHangup 2) s = .next t ∧
        t.line =
          { s.line with
            st := .offered, calldir := .inbound, ringing := false, answered := false, flashV := false,
            tone := if s.line.tone = .dialrecall then .dialtone else .none } ∧
        t.banks.tw = Bank.empty ∧ t.banks.real.logical = { s.banks.real with in3way := false }.logical ∧
        t.banks.cw.logical = s.banks.cw.logical ∧ t.tx = s.tx ∧ t.conf.logical = s.conf.logical ∧ CallFrame s t ∧
        (Accepting s → NoError s t)) ∧
    (∀ (leg : BitVec 2) (x : Leg), legOf leg = some x → (s.bank x).owned = false →
      exec (.hostHangup leg) s = .next (raise .unexpected s)) ∧
    exec (.hostHangup 3) s = .next (raise .badArg s)

/-- R394, R255, R254, R251, R256: `CWOFFER` to an established call allocates CallWaiting for the new call and alerts the
subscriber with a spill: the alert tone alone, or the long alert with the name and number after it; it is refused where the
Line is not in such a call, and conflicts where a leg is in use. -/
def Obligations.CwofferWord : Prop :=
  ∀ (s : State) (tag : Byte), s.line.configured = true →
    (hasFeature s.cfg .callWaiting = true → s.line.st = .active → s.line.hook = true → s.banks.cw.alloc = false →
      s.banks.tw.alloc = false → Accepting s → s.par.ok →
      let p := s.par.codec
      let tone := (Config.waveforms p).tone (cfgLaw s.cfg)
      let samples :=
        if hasFeature s.cfg .cwCid = true then
          tone [p.sasHz] p.casShortSamples ++ tone [p.casLoHz, p.casHiHz] (p.casLongSamples - p.casShortSamples) ++
            cidPayload .cwcid s
        else tone [p.sasHz] p.casShortSamples
      ∃ t, exec (.hostCwoffer tag) s = .next t ∧
        t.banks.cw.logical =
          { Bank.empty with
            alloc := true, res := freeHandle s, owned := true, owner := tag, pend := PendBit.needRinging.mask } ∧
        t.banks.tw.logical = s.banks.tw.logical ∧
        t.line = { s.line with cwrepeat := ticksOf s.par (cfgCwRepeatMs s.cfg), postwin := 0 } ∧
        SpillBegun .cwcid samples s t ∧
        (hasFeature s.cfg .cwCid = false → t.tx.len.toNat = p.casShortSamples ∧ (p = {} → t.tx.len = 2400)) ∧
        t.rx = s.rx ∧ t.mwi = s.mwi ∧ t.cfg = s.cfg ∧ SameInputs s t ∧ NoError s t) ∧
    (hasFeature s.cfg .callWaiting = false ∨ s.line.st ≠ .active ∨ s.line.hook = false →
      exec (.hostCwoffer tag) s = .next (said [indWord (lineId s) 0xF (.cwRefused tag)] (raise .refused s))) ∧
    (hasFeature s.cfg .callWaiting = true → s.line.st = .active → s.line.hook = true →
      s.banks.cw.alloc = true ∨ s.banks.tw.alloc = true →
      exec (.hostCwoffer tag) s = .next (said [indWord (lineId s) 0xF (.cwRefused tag)] (raise .conflict s))) ∧
    (hasFeature s.cfg .callWaiting = true → s.line.st = .active → s.line.hook = true → s.banks.cw.alloc = false →
      s.banks.tw.alloc = false → Refusing s →
      exec (.hostCwoffer tag) s = .next (said [indWord (lineId s) 0xF (.cwRefused tag)]
        (raise .lrOpen (spoke (lrWord (lineId s) (handleField (freeHandle s)) .openLine) s))))

/-- R396: `POLL` reports a leg's pending notifications and clears them, and changes nothing else; a leg that is not allocated
reads 0 (in states with the bank invariants, `BankInvKept`). -/
def Obligations.PollWord : Prop :=
  ∀ (s : State) (leg : BitVec 2), s.line.configured = true →
    (∀ x, legOf leg = some x →
      exec (.hostPoll leg) s =
        .next ((said [indWord (lineId s) (0#2 ++ leg) (.pendVal (s.bank x).pend)] s).updBank x
          fun b => { b with pend := 0 })) ∧
    (∀ x, legOf leg = some x → (s.bank x).alloc = false → BankInv s →
      exec (.hostPoll leg) s = .next (said [indWord (lineId s) (0#2 ++ leg) (.pendVal 0)] s)) ∧
    (legOf leg = none → exec (.hostPoll leg) s = .next (raise .badArg s))

/-- R398, R399: `SETLINEAR` sets a leg's linear mode, deferred while a spill is sent; `INDICATE` plays the tone of the call's
progress to a subscriber who is setting up a call. -/
def Obligations.SetlinearAndIndicate : Prop :=
  ∀ (s : State) (leg cond : BitVec 2) (b : Bool), s.line.configured = true →
    (∀ x, legOf leg = some x → (s.bank x).alloc = true → ¬ (x = .r ∧ s.tx.go = true) → (s.bank x).linear ≠ b →
      AcceptingNext s →
      exec (.hostSetlinear leg b) s =
        .next ((spoke (lrWord (lineId s) (handleField (s.bank x).res) (.setLinear b)) s).updBank x
          fun k => { k with linear := b })) ∧
    (∀ x, legOf leg = some x → (s.bank x).alloc = true → ¬ (x = .r ∧ s.tx.go = true) → (s.bank x).linear ≠ b →
      Refusing s →
      exec (.hostSetlinear leg b) s =
        .next (raise .lrCtrl (spoke (lrWord (lineId s) (handleField (s.bank x).res) (.setLinear b)) s))) ∧
    (∀ x, legOf leg = some x → (s.bank x).alloc = false → exec (.hostSetlinear leg b) s = .next (raise .unexpected s)) ∧
    exec (.hostSetlinear 3 b) s = .next (raise .badArg s) ∧
    (∀ x, legOf leg = some x → (s.bank x).alloc = true → ¬ (x = .r ∧ s.tx.go = true) → (s.bank x).linear = b →
      exec (.hostSetlinear leg b) s = .next s) ∧
    (s.banks.real.alloc = true → s.tx.go = true →
      exec (.hostSetlinear 0 b) s = .next { s with tx := { s.tx with linSaved := b } }) ∧
    (s.banks.real.owned = true → s.line.hook = true →
      s.line.st = .threeWayDialing ∨ (s.line.st = .offered ∧ s.line.calldir = .inbound) →
      ∃ t, exec (.hostIndicate cond) s = .next t ∧ t.line = { s.line with tone := indicatedTone cond } ∧
        t.banks = s.banks ∧ t.conf = s.conf ∧ t.tx = s.tx ∧ CallFrame s t ∧
        (newWords s t).filter isCommand =
          (if s.line.tone = .none then [] else [lrWord (lineId s) (handleField s.banks.real.res) .toneStop]) ++
          (if cond = 0 then []
            else [lrWord (lineId s) (handleField s.banks.real.res) (.tonePlay (indicatedTone cond))]) ∧
        (Accepting s → NoError s t)) ∧
    (s.banks.real.owned = false ∨ s.line.hook = false ∨
        (s.line.st ≠ .threeWayDialing ∧ ¬ (s.line.st = .offered ∧ s.line.calldir = .inbound)) →
      exec (.hostIndicate cond) s = .next (raise .unexpected s))

/-! ### Message waiting -/

/-- R341, R342, R346, and R343, R347, R348, R349, R369 of the `TICK`: `MWINOTIFY` latches a change of the mailbox state; on a
quiet Idle line it starts the engine at once, with the alert where ring-pulse alert is configured, else with the spill of the
message (4000 samples with the default parameters). Each tick takes one branch: the alert is rung or given up, a pause that has
lasted its time ends in the spill, a spill that is gone in the cleanup, the cleanup in Done, and Done in NULL, from where a
notification that was latched meanwhile starts; one that could not start is tried again at housekeeping. R257, R366, R368: while
the engine's spill is sent, a tick without `TXREADY` only counts, a tick with it writes one frame, and the tick that writes the
last frame completes the spill and moves the engine to Cleanup; a frame that is refused ends the sequence undelivered. -/
def Obligations.MwinotifyWord : Prop :=
  ∀ (s : State),
    let p := s.par.codec
    let std := if cidSigOf s.cfg = CidSig.v23 then Config.FskStd.v23 else Config.FskStd.bell202
    let samples := fun b => (Config.waveforms p).synthFsk std (cfgLaw s.cfg) (fskBits p .mwi (mwiMsg p b))
    let sends := fun (b pending : Bool) (t : State) =>
      t.mwi = { s.mwi with msgs := b, pending := pending, st := .sendSpill } ∧ SpillBegun .mwi (samples b) s t ∧
      t.tx.len.toNat = p.bitStart (p.seizureBits + p.preMarkBits + 60 + p.postMarkBits) ∧ (p = {} → t.tx.len = 4000) ∧
      t.banks.cw.logical = s.banks.cw.logical ∧ t.banks.tw.logical = s.banks.tw.logical ∧
      t.rx = s.rx ∧ t.cfg = s.cfg ∧ SameInputs s t ∧ (Accepting s → NoError s t)
    (s.line.configured = true → ∀ b : Bool,
      (b = s.mwi.msgs → exec (.hostMwinotify b) s = .next s) ∧
      (b ≠ s.mwi.msgs → hasFeature s.cfg .mwiSend = false →
        exec (.hostMwinotify b) s = .next { s with mwi := { s.mwi with msgs := b } }) ∧
      (b ≠ s.mwi.msgs → hasFeature s.cfg .mwiSend = true → ¬ QuietForMwi s →
        exec (.hostMwinotify b) s = .next { s with mwi := { s.mwi with msgs := b, pending := true } }) ∧
      (b ≠ s.mwi.msgs → hasFeature s.cfg .mwiSend = true → hasFeature s.cfg .mwiRpas = true → QuietForMwi s →
        exec (.hostMwinotify b) s = .next { s with mwi := { s.mwi with msgs := b, pending := false, st := .sendAlert } }) ∧
      (b ≠ s.mwi.msgs → hasFeature s.cfg .mwiSend = true → hasFeature s.cfg .mwiRpas = false → QuietForMwi s → s.par.ok →
        ∃ t, exec (.hostMwinotify b) s = .next t ∧ t.line = { s.line with postwin := 0 } ∧ sends b false t)) ∧
    (CalmLine s → CalmRx s → s.line.st = .idle → ∀ txready : Bool,
      let next := fun m => exec (.timeTick false txready) s = .next { s with line := s.line.ticked s.par, mwi := m }
      let starts :=
        (hasFeature s.cfg .mwiRpas = true → next { s.mwi with st := .sendAlert, pending := false }) ∧
        (hasFeature s.cfg .mwiRpas = false → s.par.ok →
          ∃ t, exec (.timeTick false txready) s = .next t ∧ t.line = { s.line.ticked s.par with postwin := 0 } ∧
            sends s.mwi.msgs false t)
      let mayStart := s.mwi.pending = true ∧ hasFeature s.cfg .mwiSend = true ∧ QuietForMwi s
      (s.mwi.st = .sendAlert → AcceptingNext s →
        exec (.timeTick false txready) s =
          .next { spoke (lrWord (lineId s) (handleField s.banks.real.res) (.setHook .ring)) s with
            line := s.line.ticked s.par, mwi := { s.mwi with st := .alertWait } }) ∧
      (s.mwi.st = .sendAlert → Refusing s → 1 < s.line.hkcnt →
        exec (.timeTick false txready) s =
          .next { said [indWord (lineId s) 0xF (.mwiDone false)] (raise .lrCtrl
              (spoke (lrWord (lineId s) (handleField s.banks.real.res) (.setHook .ring)) s)) with
            line := s.line.ticked s.par, mwi := { s.mwi with st := .done, pending := true } }) ∧
      (s.mwi.st = .alertWait → next s.mwi) ∧
      (s.mwi.st = .pause → reachedAt (s.line.ticked s.par).now s.mwi.deadline = false → next s.mwi) ∧
      (s.mwi.st = .pause → reachedAt (s.line.ticked s.par).now s.mwi.deadline = true → s.par.ok →
        ∃ t, exec (.timeTick false txready) s = .next t ∧ t.line = { s.line.ticked s.par with postwin := 0 } ∧
          sends s.mwi.msgs s.mwi.pending t) ∧
      (s.mwi.st = .sendSpill → s.tx.kind = .none → next { s.mwi with st := .cleanup }) ∧
      (s.mwi.st = .cleanup → 1 < s.line.hkcnt ∨ s.mwi.pending = false →
        exec (.timeTick false txready) s =
          .next { said [indWord (lineId s) 0xF (.mwiDone true)] s with
            line := s.line.ticked s.par, mwi := { s.mwi with st := .done } }) ∧
      (s.mwi.st = .done → ¬ mayStart → next { s.mwi with st := .null }) ∧
      (s.mwi.st = .done → mayStart → starts) ∧
      (s.mwi.st = .null → 1 < s.line.hkcnt ∨ ¬ mayStart → next s.mwi) ∧
      (s.mwi.st = .null → s.line.hkcnt ≤ 1 → mayStart → starts)) ∧
    -- SendSpill (R346, R368): the ticks of the spill that is being sent
    (CountingLine s → CalmRx s → s.line.st = .idle → s.mwi.st = .sendSpill → s.tx.kind ≠ .none →
      let n := p.frameSamples
      (∀ txready : Bool, s.tx.go = false ∨ txready = false →
        exec (.timeTick false txready) s = .next { s with line := s.line.ticked s.par }) ∧
      (s.tx.go = true → 0 < n → s.tx.rd.toNat + n < s.tx.len.toNat → AcceptingNext s →
        exec (.timeTick false true) s =
          .next { spoke (frameWord (BitVec.ofNat 16 n) s) s with
            line := s.line.ticked s.par, tx := { s.tx with rd := s.tx.rd + BitVec.ofNat 16 n } }) ∧
      (s.tx.go = true → s.tx.rd < s.tx.len → s.tx.len.toNat ≤ s.tx.rd.toNat + n → AcceptingNext s →
        ∃ t, exec (.timeTick false true) s = .next t ∧ SpillSent s t ∧ t.mwi = { s.mwi with st := .cleanup }) ∧
      (s.tx.go = true → 0 < n → s.tx.rd < s.tx.len → Refusing s →
        ∃ t, exec (.timeTick false true) s = .next t ∧ t.line.st = .idle ∧ t.rx = CidRxRegs.reset ∧
          (newWords s t).take 2 =
            [frameWord (BitVec.ofNat 16 (min n (s.tx.len.toNat - s.tx.rd.toNat))) s, indWord (lineId s) 0xF (.error .fatal)] ∧
          indWord (lineId s) 0xF (.mwiDone false) ∈ newWords s t))

/-- R350, property T6: an off-hook event, an inbound ring, an alarm, a call of the host and the loss of the resource each move
an active MWI engine to Done in their own step: its spill is discarded, the notification stays latched unless it had been
sent in full, and the host is told; an off-hook call is set up in that same step. -/
def Obligations.MwiYields : Prop :=
  ∀ (s : State) (i : Instr), LineReady s → s.line.st = .idle → s.mwi.st.isActive = true →
    (i = .hwOffhook ∨ i = .fakeOffhook ∨ i = .hwRingoffhook ∨ i = .fakeRingoffhook ∨ i = .hwRingbegin ∨
      i = .fakeRingbegin ∨ i = .hwAlarm ∨ i = .fakeAlarm ∨ i = .timeLrfatal ∨
      ∃ mode n tag, i = .hostCall mode n tag ∧ (mode = true → n.toNat ≤ s.par.dialMax)) →
    ∃ t, exec i s = .next t ∧
      t.mwi = { s.mwi with
        st := .done, pending := if s.mwi.st = .cleanup then s.mwi.pending else true } ∧
      indWord (lineId s) 0xF (.mwiDone (s.mwi.st == .cleanup)) ∈ newWords s t ∧
      (s.mwi.st ≠ .cleanup → (∀ mode n tag, i ≠ .hostCall mode n tag) → t.tx = SpillRegs.reset) ∧
      (i = .hwOffhook ∨ i = .fakeOffhook →
        t.line.st = .offered ∧ t.line.hook = true ∧ t.line.calldir = .inbound ∧ t.line.tone = .dialtone ∧
        t.banks.real.owned = true ∧ indWord (lineId s) 0 .spawnSetup ∈ newWords s t)

/-! ### Time -/

/-- R360 to R369, R257, R258, R272 to R274: what a `TICK` does on a quiet line, with a spill to send or to complete, with a
call-waiting alert to repeat, with a ring that has lasted its time, while Releasing, with a frame received (R73), and for the
Caller-ID receiver: the FSK feed, its accumulator, the settle time, the overall timeout and the energy watch. (That the frame
is the next one of the environment's list, taken in the step of the `TICK` itself, is the model's choice,
notes/assumptions/5.md; so is the clause on it. The bound of `CID_TIMEOUT_MS`: notes/assumptions/9.md.) -/
def Obligations.TickWord : Prop :=
  ∀ (s : State) (rxvalid txready : Bool), s.line.configured = true →
    let n := s.par.codec.frameSamples
    -- a tick that only counts, whatever the state of the line: no frame is due to be sent (R366) or to be received
    (s.line.st = .idle → s.tx.go = false → CalmRx s → CalmMwi s →
      exec (.timeTick false txready) s = .next { s with line := s.line.ticked s.par }) ∧
    (CountingLine s → s.tx.go = false ∨ txready = false → CalmRx s → MwiWaits s →
      exec (.timeTick false txready) s = .next { s with line := s.line.ticked s.par }) ∧
    -- one frame of a spill of any kind, not its last (R257)
    (CountingLine s → s.tx.go = true → CalmRx s → MwiWaits s → 0 < n → s.tx.rd.toNat + n < s.tx.len.toNat →
      AcceptingNext s →
      exec (.timeTick false true) s =
        .next { spoke (frameWord (BitVec.ofNat 16 n) s) s with
          line := s.line.ticked s.par, tx := { s.tx with rd := s.tx.rd + BitVec.ofNat 16 n } }) ∧
    (s.line.st = .offered → s.line.ringing = true → s.line.ringt = 1 →
      ∃ t, exec (.timeTick rxvalid txready) s = .next t ∧ t.line.st = .releasing ∧ t.line.hook = false ∧
        t.line.ringing = false ∧ t.line.guardUntil = (s.line.ticked s.par).now + (cfgGuardMs s.cfg).setWidth 32 ∧
        t.banks.real.owned = false ∧
        ∀ x : Leg, (s.bank x).owned = true →
          indWord (lineId s) (legField4 x) (.hangup (s.bank x).owner .ringTimeout) ∈ newWords s t) ∧
    (s.line.st = .offered → s.line.ringing = true → 1 < s.line.ringt → s.tx.go = false →
      ∃ t, exec (.timeTick rxvalid txready) s = .next t ∧ t.line.st = .offered ∧ t.line.ringt = s.line.ringt - 1) ∧
    (s.line.st = .releasing →
      ∃ t, exec (.timeTick rxvalid txready) s = .next t ∧
        t.line.st = if reachedAt (s.line.ticked s.par).now s.line.guardUntil = true then .idle else .releasing) ∧
    (s.par.ok → ∃ t, exec (.timeTick true txready) s = .next t ∧ t.env.frames = s.env.frames.tail ∧
      (∀ a < n, rd .rxbuf a t = (nextFrame s).getD a 0) ∧
      ∀ f fs, s.env.frames = f :: fs → f.length = n → nextFrame s = f) ∧
    -- SPILL_COMPLETE (R257, R258), in the step of the last frame
    (CountingLine s → s.tx.go = true → s.tx.rd < s.tx.len → s.tx.len.toNat ≤ s.tx.rd.toNat + n →
      CalmRx s → CalmMwi s ∨ (s.mwi.st = .null ∧ s.line.st ≠ .idle) → AcceptingNext s →
      ∃ t, exec (.timeTick false true) s = .next t ∧ SpillSent s t ∧ t.mwi = s.mwi) ∧
    -- the repeat-callwaiting timer (R365, R255)
    (s.line.st = .active → s.line.hook = true → s.line.cwrepeat = 1 → s.banks.cw.owned = true → s.rx.st = .off →
      s.rx.timeout = 0 → CalmMwi s → s.par.ok →
      ∃ t, exec (.timeTick false false) s = .next t ∧
        t.line = { s.line.ticked s.par with cwrepeat := ticksOf s.par (cfgCwRepeatMs s.cfg), postwin := 0 } ∧
        SpillBegun .cwcid (cidSamples .cwcid s) s t ∧ t.banks.cw.logical = s.banks.cw.logical ∧
        t.banks.tw.logical = s.banks.tw.logical ∧ t.rx = s.rx ∧ t.mwi = s.mwi ∧ t.cfg = s.cfg ∧ SameInputs s t ∧
        (Accepting s → NoError s t)) ∧
    -- the Caller-ID receiver (R272 to R274) on a line where nothing else is due
    (CalmLine s → CalmMwi s →
      let count := fun (r : CidRxRegs) => { r with timeout := if s.rx.timeout = 0 then 0 else s.rx.timeout - 1 }
      let counts := exec (.timeTick false txready) s = .next { s with line := s.line.ticked s.par, rx := count s.rx }
      (s.rx.st = .decoding → s.rx.timeout ≠ 1 → counts) ∧
      (s.rx.st = .done → resultDue s = false ∨ s.rx.dringOn = true → s.rx.timeout ≠ 1 ∨ s.line.st ≠ .idle → counts) ∧
      (s.rx.timeout = 1 → s.rx.st = .decoding → s.line.st ≠ .idle →
        ∃ t, exec (.timeTick false txready) s = .next t ∧
          t.rx = { concludedRx .fail s.rx.cidValid s with timeout := 0 } ∧ t.err = (raise .cidTimeout s).err ∧
          newWords s t = indWord (lineId s) 0xF (.error .cidTimeout) :: concludedWords s.rx.cidValid s ∧
          { t with rx := s.rx, err := s.err, env := { t.env with out := s.env.out } } = { s with line := s.line.ticked s.par }) ∧
      (s.rx.timeout = 1 → s.rx.st = .decoding → s.line.st = .idle →
        exec (.timeTick false txready) s =
          .next { raise .cidTimeout s with line := { s.line.ticked s.par with prering := false }, rx := CidRxRegs.reset }) ∧
      (s.rx.timeout = 1 → s.rx.st = .done → s.line.st = .idle →
        exec (.timeTick false txready) s =
          .next { s with line := { s.line.ticked s.par with prering := false }, rx := CidRxRegs.reset }) ∧
      (s.rx.st = .settle → s.rx.timeout = 0 → 1 < s.rx.settle →
        exec (.timeTick rxvalid txready) s =
          .next { (if rxvalid = true then receiveFrame s else s) with
            line := s.line.ticked s.par, rx := { s.rx with settle := s.rx.settle - 1 } }) ∧
      (s.rx.st = .settle → s.rx.timeout = 0 → s.rx.settle ≤ 1 → ticksOf s.par (cfgCidTimeoutMs s.cfg) ≠ 1 →
        exec (.timeTick false txready) s =
          .next { s with
            line := s.line.ticked s.par
            rx := { s.rx with
              st := .decoding, settle := 0, rxlen := 0, dtmflen := 0, dtmfOpen := false, cidValid := false,
              timeout := if ticksOf s.par (cfgCidTimeoutMs s.cfg) = 0 then 0 else ticksOf s.par (cfgCidTimeoutMs s.cfg) - 1 } }) ∧
      let frame := nextFrame s
      -- the energy watch (R274), strictly above the threshold
      (s.rx.st = .off → s.rx.timeout = 0 → hasFeature s.cfg .cidRx = true → cidStartOf s.cfg = .dtmfNoAlert →
        s.line.st = .idle → s.line.postwin ≤ 1 → s.line.inalarm = false → s.par.ok →
        ∃ t, exec (.timeTick true txready) s = .next t ∧
          t.rx = (if cfgDtmfThresh s.cfg < (Config.waveforms s.par.codec).frameEnergy (cfgLaw s.cfg) frame then
            { CidRxRegs.reset with st := .settle, settle := BitVec.ofNat 8 (s.par.ticks s.par.dtmfSettleMs) } else s.rx) ∧
          SameBytesBut .rxbuf 0 n s t ∧
          { t with rx := s.rx, mem := s.mem, env := s.env } = { s with line := s.line.ticked s.par } ∧
          t.env = { s.env with frames := s.env.frames.tail, framesDrawn := s.env.framesDrawn + 1 }) ∧
      -- the FSK feed (R273)
      (s.rx.st = .decoding → rxDtmf s.cfg = false → s.rx.timeout ≠ 1 → s.par.ok →
        let samples := rdList .rxacc 0 s.rx.rxlen.toNat s ++ frame
        let decoded := cidDecode s.par.codec (rxStd s.cfg) (cfgLaw s.cfg) samples
        let fits := s.rx.rxlen.toNat + n ≤ s.par.spillBytes
        let fed := fun (r : CidRxRegs) => { count r with rxlen := s.rx.rxlen + BitVec.ofNat 16 n }
        ∃ t, exec (.timeTick true txready) s = .next t ∧ t.env.frames = s.env.frames.tail ∧
          (∀ a < n, rd .rxbuf a t = frame.getD a 0 ∧ (fits → rd .rxacc (s.rx.rxlen.toNat + a) t = frame.getD a 0)) ∧
          (∀ sp a, a < 65536 → ¬ (sp = .rxbuf ∧ a < n) →
            ¬ (sp = .rxacc ∧ fits ∧ s.rx.rxlen.toNat ≤ a ∧ a < s.rx.rxlen.toNat + n) →
            ¬ (sp = .cidout ∧ a < 34 ∧ t.rx.cidValid = true) → rd sp a t = rd sp a s) ∧
          { t with rx := s.rx, err := s.err, mem := s.mem, env := s.env } = { s with line := s.line.ticked s.par } ∧
          (fits → decoded = .more → t.rx = fed s.rx ∧ newWords s t = [] ∧ NoError s t) ∧
          (fits → decoded = .error → t.rx = fed (concludedRx .fail s.rx.cidValid s) ∧
            t.err = (raise .cidFail s).err ∧
            newWords s t = indWord (lineId s) 0xF (.error .cidFail) :: concludedWords s.rx.cidValid s) ∧
          (∀ num name, fits → decoded = .done num name → t.rx = fed (concludedRx .done true s) ∧ Committed num name t ∧
            newWords s t = concludedWords true s ∧ NoError s t) ∧
          (¬ fits → t.rx = count (concludedRx .fail s.rx.cidValid s) ∧ t.err = (raise .cidFail s).err ∧
            newWords s t = indWord (lineId s) 0xF (.error .cidFail) :: concludedWords s.rx.cidValid s)))

/-- R372, R416, R257: the loss of the Line Resource hangs up every leg with cause FATAL, whether it is told by `LRFATAL` or by
the answer `FATAL` to the frame a `TICK` writes; on a line without a call it is only logged, and what Caller-ID and spill were
doing is dropped. -/
def Obligations.LrfatalWord : Prop :=
  ∀ (s : State), s.line.configured = true → s.mwi.st.isActive = false →
    (s.line.st ≠ .idle → s.line.st ≠ .releasing →
      ∃ t, exec .timeLrfatal s = .next t ∧ HungUp .fatal none s t ∧
        (Accepting s → t.err = (raise .fatal s).err) ∧
        (newWords s t).head? = some (indWord (lineId s) 0xF (.error .fatal))) ∧
    (CountingLine s → s.line.st ≠ .idle → s.mwi.st = .null → s.tx.go = true → s.tx.rd < s.tx.len →
      0 < s.par.codec.frameSamples → Refusing s →
      ∃ t, exec (.timeTick false true) s = .next t ∧ HungUp .fatal none (s.updLine (LineRegs.ticked s.par)) t ∧
        (newWords s t).take 2 =
          [frameWord (BitVec.ofNat 16 (min s.par.codec.frameSamples (s.tx.len.toNat - s.tx.rd.toNat))) s,
           indWord (lineId s) 0xF (.error .fatal)]) ∧
    (s.line.st = .idle ∨ s.line.st = .releasing →
      ∃ t, exec .timeLrfatal s = .next t ∧ t.line = { s.line with prering := false, postwin := 0 } ∧
        t.banks.real.logical = { s.banks.real with linear := linearAfterDiscard s }.logical ∧
        t.banks.cw.logical = s.banks.cw.logical ∧ t.banks.tw.logical = s.banks.tw.logical ∧
        SpillGone s t ∧ t.rx = CidRxRegs.reset ∧ t.mwi = s.mwi ∧ t.cfg = s.cfg ∧ SameBytes s t ∧ SameInputs s t ∧
        (newWords s t).head? = some (indWord (lineId s) 0xF (.error .fatal)) ∧
        (Accepting s → t.err = (raise .fatal s).err))

/-! ### Caller-ID -/

/-- R282: distinctive ring. The selected context is the number of the first pattern in use of which every target is the
wildcard or within the range of its gap, on mathematical integers; without one it is the default context. R268, R280: a further
ring burst captures the gap since the one before, and the last gap of a pattern selects the context; a decode that waited for the cadence
begins then (its timeout: notes/assumptions/9.md). R285: an answer by `UP` ends the sampling with what it has. (`DRING_NPAT`
above `N_DRING` counts as `N_DRING`, and the wildcard and the number of gaps are parameters, by default -1 and three: the
model's choice, notes/assumptions/8.md.) (A gap is R12's
`since`, also above 2^31 ms, where it saturates: DEDUCED, notes/assumptions/28.md.) -/
def Obligations.DistinctiveRing : Prop :=
  (∀ (par : Config.Params) (c : CfgRegs) (gap : Vector Half 3),
    let inUse := min (slice (cfgRead c 0x1C) 0 2).toNat par.nDring
    let fits := fun p => ∀ i : Fin 3, i.val < par.nGaps → cfgDringTarget c p i.val = par.dringWildcard ∨
      ((gap[i].toNat : Int) - (cfgDringTarget c p i.val).toInt ≤ (cfgDringRange c p).toNat ∧
        (cfgDringTarget c p i.val).toInt - (gap[i].toNat : Int) ≤ (cfgDringRange c p).toNat)
    (∀ p < inUse, fits p → (∀ q < p, ¬ fits q) → dringContext par c gap = BitVec.ofNat 8 p) ∧
    ((∀ p < inUse, ¬ fits p) → dringContext par c gap = 0xFF)) ∧
  ∀ (s : State) (i : Instr), s.rx.dringOn = true →
    let gap := BitVec.ofNat 16 (min (s.line.now - s.rx.lastringT).toNat 65535)
    let gaps := s.rx.gap.setIfInBounds s.rx.ngap.toNat gap
    let evaluated := fun (gaps : Vector Half 3) =>
      { s.rx with
        ctx := dringContext s.par s.cfg gaps, dringOn := false, dringDone := true, ngap := 0, gap := #v[0, 0, 0] }
    let burst := fun (r : CidRxRegs) =>
      { r with ringcnt := if s.rx.ringcnt = 0xFF then 0xFF else s.rx.ringcnt + 1, lastringT := s.line.now }
    (isRingbegin i = true ∨ isRingoffhook i = true → LineReady s → s.mwi.st.isActive = false → s.line.st = .offered →
      s.line.calldir = .inbound → s.line.hook = false →
      ∃ t, exec i s = .next t ∧
        { t with rx := s.rx, env := { t.env with out := s.env.out } } =
          { s with line := { s.line with ringt := ticksOf s.par (cfgRingTimeoutMs s.cfg) } } ∧
        (s.rx.ngap.toNat < 3 → s.rx.ngap.toNat + 1 ≠ s.par.nGaps →
          t.rx = burst { s.rx with gap := gaps, ngap := s.rx.ngap + 1 } ∧
          newWords s t = []) ∧
        (s.rx.ngap.toNat < 3 → s.rx.ngap.toNat + 1 = s.par.nGaps → s.rx.st = .waitDring →
          t.rx = burst { evaluated gaps with
            st := .decoding, rxlen := 0, dtmflen := 0, dtmfOpen := false, cidValid := false,
            timeout := ticksOf s.par (cfgCidTimeoutMs s.cfg) } ∧
          newWords s t = []) ∧
        (s.rx.ngap.toNat < 3 → s.rx.ngap.toNat + 1 = s.par.nGaps → s.rx.st = .off ∨ s.rx.st = .done ∨ s.rx.st = .fail →
          s.rx.resultSent = false →
          t.rx = burst { evaluated gaps with resultSent := true } ∧
          newWords s t = [indWord (lineId s) 0 (.cidResult s.rx.cidValid (dringContext s.par s.cfg gaps))])) ∧
    (s.line.configured = true → s.banks.real.owned = true → s.line.st = .offered → s.line.calldir = .inbound →
      s.line.hook = false → AcceptingNext s →
      ∃ t, exec (.hostUp 0) s = .next t ∧
        t.rx =
          { evaluated s.rx.gap with
            st := if s.rx.st = .settle ∨ s.rx.st = .decoding ∨ s.rx.st = .waitDring then .fail else s.rx.st
            timeout := 0, resultSent := true } ∧
        (s.rx.resultSent = false →
          indWord (lineId s) 0 (.cidResult s.rx.cidValid (dringContext s.par s.cfg s.rx.gap)) ∈ newWords s t))

/-- R286, property T7: what the generator encodes the detector decodes, for every lawful modem (R318), signaling standard and
law, and for every choice of the codec's parameters that leaves a modem room (notes/assumptions/8.md) with a closing mark of at
least ten bits (R306, law L1 of R318) and two different parameter codes, whatever silence follows the spill. (The kind NONE,
which no rule sends, is the model's own: notes/assumptions/26.md.) -/
def Obligations.CallerIdRoundTrip : Prop :=
  ∀ (p : Config.CodecParams) (kind : SpillKind) (std : Config.FskStd) (law : Law) (num name : List Byte) (n : Nat),
    p.ok → 10 ≤ p.postMarkBits → p.paramNumber ≠ p.paramName →
    num.length ≤ 16 → name.length ≤ 16 → n < p.frameSamples →
    cidDecode p std law
      ((Config.waveforms p).synthFsk std law (fskBits p kind (mdmf p num name)) ++
        List.replicate n (p.silence law)) = .done num name

end
end

