-- ==== Sys2Proof/Laws/Decode.lean ====
section
/-! SUPPORT. The fields of the words the encoder writes (spec/30_encoding.md R100, R102). -/

namespace Sys2Proof

variable (src : BitVec 2) (code : BitVec 6) (a8 : Byte) (a16 : Half)

@[simp] theorem srcOf_evWord : srcOf (evWord src code a8 a16) = src := by
  simp only [srcOf, evWord, slice]
  ext i hi
  simp only [BitVec.getElem_extractLsb', BitVec.getLsbD_append]
  simp [show ¬ (30 + i < 16) by omega, show ¬ (30 + i - 16 < 8) by omega, show ¬ (30 + i - 16 - 8 < 6) by omega,
    show 30 + i - 16 - 8 - 6 = i by omega, BitVec.getLsbD_eq_getElem hi]

@[simp] theorem codeOf_evWord : codeOf (evWord src code a8 a16) = code := by
  simp only [codeOf, evWord, slice]
  ext i hi
  simp only [BitVec.getElem_extractLsb', BitVec.getLsbD_append]
  simp [show ¬ (24 + i < 16) by omega, show ¬ (24 + i - 16 < 8) by omega, show 24 + i - 16 - 8 = i by omega, hi]

@[simp] theorem a8Of_evWord : a8Of (evWord src code a8 a16) = a8 := by
  simp only [a8Of, evWord, slice]
  ext i hi
  simp only [BitVec.getElem_extractLsb', BitVec.getLsbD_append]
  simp [show ¬ (16 + i < 16) by omega, show 16 + i - 16 = i by omega, hi]

@[simp] theorem a16Of_evWord : a16Of (evWord src code a8 a16) = a16 := by
  simp only [a16Of, evWord, slice]
  ext i hi
  simp only [BitVec.getElem_extractLsb', BitVec.getLsbD_append]
  simp [hi]

@[simp] theorem lowByte_evWord : lowByte (evWord src code a8 a16) = slice a16 0 8 := by simp [lowByte]
@[simp] theorem highByte_evWord : highByte (evWord src code a8 a16) = slice a16 8 8 := by simp [highByte]
@[simp] theorem legField_evWord : legField (evWord src code a8 a16) = slice a8 0 2 := by simp [legField]
@[simp] theorem spaceField_evWord : spaceField (evWord src code a8 a16) = slice a8 0 3 := by simp [spaceField]
@[simp] theorem a16Bit_evWord (n : Nat) : a16Bit (evWord src code a8 a16) n = a16.getLsbD n := by simp [a16Bit]

@[simp] theorem slice_halfOf_low (hi lo : Byte) : slice (halfOf hi lo) 0 8 = lo := by
  simp only [slice, halfOf]
  ext i h
  simp only [BitVec.getElem_extractLsb', BitVec.getLsbD_append]
  simp [h]

@[simp] theorem slice_halfOf_high (hi lo : Byte) : slice (halfOf hi lo) 8 8 = hi := by
  simp only [slice, halfOf]
  ext i h
  simp only [BitVec.getElem_extractLsb', BitVec.getLsbD_append]
  simp [h]

@[simp] theorem slice_legByte (leg : BitVec 2) : slice (legByte leg) 0 2 = leg := by
  simp only [slice, legByte]
  ext i h
  simp only [BitVec.getElem_extractLsb', BitVec.getLsbD_append]
  simp [h]

@[simp] theorem slice_spaceByte (space : BitVec 3) : slice (spaceByte space) 0 3 = space := by
  simp only [slice, spaceByte]
  ext i h
  simp only [BitVec.getElem_extractLsb', BitVec.getLsbD_append]
  simp [h]

@[simp] theorem flagHalf_bit (b : Bool) : (flagHalf b).getLsbD 0 = b := by cases b <;> decide

/-- The bytes of a word, put together again, are the word (R74). -/
@[simp] theorem wordOfBytes_slices (w : Word) :
    wordOfBytes (slice w 0 8) (slice w 8 8) (slice w 16 8) (slice w 24 8) = w := by
  simp only [wordOfBytes, slice]
  ext i hi
  simp only [BitVec.getElem_append, BitVec.getElem_extractLsb']
  by_cases h1 : i < 8
  · simp [h1, BitVec.getLsbD_eq_getElem hi]
  · by_cases h2 : i < 16
    · simp [h1, show i - 8 < 8 by omega, show 8 + (i - 8) = i by omega, BitVec.getLsbD_eq_getElem hi]
    · by_cases h3 : i < 24
      · simp [h1, show ¬ i - 8 < 8 by omega, show i - 8 - 8 < 8 by omega, show 16 + (i - 8 - 8) = i by omega,
          BitVec.getLsbD_eq_getElem hi]
      · simp [h1, show ¬ i - 8 < 8 by omega, show ¬ i - 8 - 8 < 8 by omega,
          show 24 + (i - 8 - 8 - 8) = i by omega, BitVec.getLsbD_eq_getElem hi]

/-- Decoding the stored bytes of a word is decoding the word. -/
theorem decodeBytes_bytesOfWord (w : Word) (rest : List Byte) :
    decodeBytes (bytesOfWord w ++ rest) =
      match decode w with
      | .ok i => .ok (i, rest)
      | .error e => .error e := by
  cases h : decode w <;> simp [bytesOfWord, decodeBytes, h]

end Sys2Proof
end

