-- ==== Sys2Proof/Laws/State.lean ====
section
/-! SUPPORT. What each update of one component of the state leaves and makes of each component, and the banks. -/

namespace Sys2Proof.Machine

@[simp] theorem State.updLine_par (f) (s : State) : (s.updLine f).par = s.par := rfl
@[simp] theorem State.updLine_line (f) (s : State) : (s.updLine f).line = f s.line := rfl
@[simp] theorem State.updLine_banks (f) (s : State) : (s.updLine f).banks = s.banks := rfl
@[simp] theorem State.updLine_conf (f) (s : State) : (s.updLine f).conf = s.conf := rfl
@[simp] theorem State.updLine_tx (f) (s : State) : (s.updLine f).tx = s.tx := rfl
@[simp] theorem State.updLine_rx (f) (s : State) : (s.updLine f).rx = s.rx := rfl
@[simp] theorem State.updLine_mwi (f) (s : State) : (s.updLine f).mwi = s.mwi := rfl
@[simp] theorem State.updLine_err (f) (s : State) : (s.updLine f).err = s.err := rfl
@[simp] theorem State.updLine_cfg (f) (s : State) : (s.updLine f).cfg = s.cfg := rfl
@[simp] theorem State.updLine_mem (f) (s : State) : (s.updLine f).mem = s.mem := rfl
@[simp] theorem State.updLine_env (f) (s : State) : (s.updLine f).env = s.env := rfl
@[simp] theorem State.updLine_bank (f) (s : State) (x : Leg) : (s.updLine f).bank x = s.bank x := rfl
@[simp] theorem State.updLine_updLine (f g) (s : State) : (s.updLine f).updLine g = s.updLine (fun v => g (f v)) := rfl

@[simp] theorem State.updBanks_par (f) (s : State) : (s.updBanks f).par = s.par := rfl
@[simp] theorem State.updBanks_line (f) (s : State) : (s.updBanks f).line = s.line := rfl
@[simp] theorem State.updBanks_banks (f) (s : State) : (s.updBanks f).banks = f s.banks := rfl
@[simp] theorem State.updBanks_conf (f) (s : State) : (s.updBanks f).conf = s.conf := rfl
@[simp] theorem State.updBanks_tx (f) (s : State) : (s.updBanks f).tx = s.tx := rfl
@[simp] theorem State.updBanks_rx (f) (s : State) : (s.updBanks f).rx = s.rx := rfl
@[simp] theorem State.updBanks_mwi (f) (s : State) : (s.updBanks f).mwi = s.mwi := rfl
@[simp] theorem State.updBanks_err (f) (s : State) : (s.updBanks f).err = s.err := rfl
@[simp] theorem State.updBanks_cfg (f) (s : State) : (s.updBanks f).cfg = s.cfg := rfl
@[simp] theorem State.updBanks_mem (f) (s : State) : (s.updBanks f).mem = s.mem := rfl
@[simp] theorem State.updBanks_env (f) (s : State) : (s.updBanks f).env = s.env := rfl
@[simp] theorem State.updBanks_updBanks (f g) (s : State) : (s.updBanks f).updBanks g = s.updBanks (fun v => g (f v)) := rfl

@[simp] theorem State.updConf_par (f) (s : State) : (s.updConf f).par = s.par := rfl
@[simp] theorem State.updConf_line (f) (s : State) : (s.updConf f).line = s.line := rfl
@[simp] theorem State.updConf_banks (f) (s : State) : (s.updConf f).banks = s.banks := rfl
@[simp] theorem State.updConf_conf (f) (s : State) : (s.updConf f).conf = f s.conf := rfl
@[simp] theorem State.updConf_tx (f) (s : State) : (s.updConf f).tx = s.tx := rfl
@[simp] theorem State.updConf_rx (f) (s : State) : (s.updConf f).rx = s.rx := rfl
@[simp] theorem State.updConf_mwi (f) (s : State) : (s.updConf f).mwi = s.mwi := rfl
@[simp] theorem State.updConf_err (f) (s : State) : (s.updConf f).err = s.err := rfl
@[simp] theorem State.updConf_cfg (f) (s : State) : (s.updConf f).cfg = s.cfg := rfl
@[simp] theorem State.updConf_mem (f) (s : State) : (s.updConf f).mem = s.mem := rfl
@[simp] theorem State.updConf_env (f) (s : State) : (s.updConf f).env = s.env := rfl
@[simp] theorem State.updConf_bank (f) (s : State) (x : Leg) : (s.updConf f).bank x = s.bank x := rfl
@[simp] theorem State.updConf_updConf (f g) (s : State) : (s.updConf f).updConf g = s.updConf (fun v => g (f v)) := rfl

@[simp] theorem State.updTx_par (f) (s : State) : (s.updTx f).par = s.par := rfl
@[simp] theorem State.updTx_line (f) (s : State) : (s.updTx f).line = s.line := rfl
@[simp] theorem State.updTx_banks (f) (s : State) : (s.updTx f).banks = s.banks := rfl
@[simp] theorem State.updTx_conf (f) (s : State) : (s.updTx f).conf = s.conf := rfl
@[simp] theorem State.updTx_tx (f) (s : State) : (s.updTx f).tx = f s.tx := rfl
@[simp] theorem State.updTx_rx (f) (s : State) : (s.updTx f).rx = s.rx := rfl
@[simp] theorem State.updTx_mwi (f) (s : State) : (s.updTx f).mwi = s.mwi := rfl
@[simp] theorem State.updTx_err (f) (s : State) : (s.updTx f).err = s.err := rfl
@[simp] theorem State.updTx_cfg (f) (s : State) : (s.updTx f).cfg = s.cfg := rfl
@[simp] theorem State.updTx_mem (f) (s : State) : (s.updTx f).mem = s.mem := rfl
@[simp] theorem State.updTx_env (f) (s : State) : (s.updTx f).env = s.env := rfl
@[simp] theorem State.updTx_bank (f) (s : State) (x : Leg) : (s.updTx f).bank x = s.bank x := rfl
@[simp] theorem State.updTx_updTx (f g) (s : State) : (s.updTx f).updTx g = s.updTx (fun v => g (f v)) := rfl

@[simp] theorem State.updRx_par (f) (s : State) : (s.updRx f).par = s.par := rfl
@[simp] theorem State.updRx_line (f) (s : State) : (s.updRx f).line = s.line := rfl
@[simp] theorem State.updRx_banks (f) (s : State) : (s.updRx f).banks = s.banks := rfl
@[simp] theorem State.updRx_conf (f) (s : State) : (s.updRx f).conf = s.conf := rfl
@[simp] theorem State.updRx_tx (f) (s : State) : (s.updRx f).tx = s.tx := rfl
@[simp] theorem State.updRx_rx (f) (s : State) : (s.updRx f).rx = f s.rx := rfl
@[simp] theorem State.updRx_mwi (f) (s : State) : (s.updRx f).mwi = s.mwi := rfl
@[simp] theorem State.updRx_err (f) (s : State) : (s.updRx f).err = s.err := rfl
@[simp] theorem State.updRx_cfg (f) (s : State) : (s.updRx f).cfg = s.cfg := rfl
@[simp] theorem State.updRx_mem (f) (s : State) : (s.updRx f).mem = s.mem := rfl
@[simp] theorem State.updRx_env (f) (s : State) : (s.updRx f).env = s.env := rfl
@[simp] theorem State.updRx_bank (f) (s : State) (x : Leg) : (s.updRx f).bank x = s.bank x := rfl
@[simp] theorem State.updRx_updRx (f g) (s : State) : (s.updRx f).updRx g = s.updRx (fun v => g (f v)) := rfl

@[simp] theorem State.updMwi_par (f) (s : State) : (s.updMwi f).par = s.par := rfl
@[simp] theorem State.updMwi_line (f) (s : State) : (s.updMwi f).line = s.line := rfl
@[simp] theorem State.updMwi_banks (f) (s : State) : (s.updMwi f).banks = s.banks := rfl
@[simp] theorem State.updMwi_conf (f) (s : State) : (s.updMwi f).conf = s.conf := rfl
@[simp] theorem State.updMwi_tx (f) (s : State) : (s.updMwi f).tx = s.tx := rfl
@[simp] theorem State.updMwi_rx (f) (s : State) : (s.updMwi f).rx = s.rx := rfl
@[simp] theorem State.updMwi_mwi (f) (s : State) : (s.updMwi f).mwi = f s.mwi := rfl
@[simp] theorem State.updMwi_err (f) (s : State) : (s.updMwi f).err = s.err := rfl
@[simp] theorem State.updMwi_cfg (f) (s : State) : (s.updMwi f).cfg = s.cfg := rfl
@[simp] theorem State.updMwi_mem (f) (s : State) : (s.updMwi f).mem = s.mem := rfl
@[simp] theorem State.updMwi_env (f) (s : State) : (s.updMwi f).env = s.env := rfl
@[simp] theorem State.updMwi_bank (f) (s : State) (x : Leg) : (s.updMwi f).bank x = s.bank x := rfl
@[simp] theorem State.updMwi_updMwi (f g) (s : State) : (s.updMwi f).updMwi g = s.updMwi (fun v => g (f v)) := rfl

@[simp] theorem State.updErr_par (f) (s : State) : (s.updErr f).par = s.par := rfl
@[simp] theorem State.updErr_line (f) (s : State) : (s.updErr f).line = s.line := rfl
@[simp] theorem State.updErr_banks (f) (s : State) : (s.updErr f).banks = s.banks := rfl
@[simp] theorem State.updErr_conf (f) (s : State) : (s.updErr f).conf = s.conf := rfl
@[simp] theorem State.updErr_tx (f) (s : State) : (s.updErr f).tx = s.tx := rfl
@[simp] theorem State.updErr_rx (f) (s : State) : (s.updErr f).rx = s.rx := rfl
@[simp] theorem State.updErr_mwi (f) (s : State) : (s.updErr f).mwi = s.mwi := rfl
@[simp] theorem State.updErr_err (f) (s : State) : (s.updErr f).err = f s.err := rfl
@[simp] theorem State.updErr_cfg (f) (s : State) : (s.updErr f).cfg = s.cfg := rfl
@[simp] theorem State.updErr_mem (f) (s : State) : (s.updErr f).mem = s.mem := rfl
@[simp] theorem State.updErr_env (f) (s : State) : (s.updErr f).env = s.env := rfl
@[simp] theorem State.updErr_bank (f) (s : State) (x : Leg) : (s.updErr f).bank x = s.bank x := rfl
@[simp] theorem State.updErr_updErr (f g) (s : State) : (s.updErr f).updErr g = s.updErr (fun v => g (f v)) := rfl

@[simp] theorem State.updCfg_par (f) (s : State) : (s.updCfg f).par = s.par := rfl
@[simp] theorem State.updCfg_line (f) (s : State) : (s.updCfg f).line = s.line := rfl
@[simp] theorem State.updCfg_banks (f) (s : State) : (s.updCfg f).banks = s.banks := rfl
@[simp] theorem State.updCfg_conf (f) (s : State) : (s.updCfg f).conf = s.conf := rfl
@[simp] theorem State.updCfg_tx (f) (s : State) : (s.updCfg f).tx = s.tx := rfl
@[simp] theorem State.updCfg_rx (f) (s : State) : (s.updCfg f).rx = s.rx := rfl
@[simp] theorem State.updCfg_mwi (f) (s : State) : (s.updCfg f).mwi = s.mwi := rfl
@[simp] theorem State.updCfg_err (f) (s : State) : (s.updCfg f).err = s.err := rfl
@[simp] theorem State.updCfg_cfg (f) (s : State) : (s.updCfg f).cfg = f s.cfg := rfl
@[simp] theorem State.updCfg_mem (f) (s : State) : (s.updCfg f).mem = s.mem := rfl
@[simp] theorem State.updCfg_env (f) (s : State) : (s.updCfg f).env = s.env := rfl
@[simp] theorem State.updCfg_bank (f) (s : State) (x : Leg) : (s.updCfg f).bank x = s.bank x := rfl
@[simp] theorem State.updCfg_updCfg (f g) (s : State) : (s.updCfg f).updCfg g = s.updCfg (fun v => g (f v)) := rfl

@[simp] theorem State.updMem_par (f) (s : State) : (s.updMem f).par = s.par := rfl
@[simp] theorem State.updMem_line (f) (s : State) : (s.updMem f).line = s.line := rfl
@[simp] theorem State.updMem_banks (f) (s : State) : (s.updMem f).banks = s.banks := rfl
@[simp] theorem State.updMem_conf (f) (s : State) : (s.updMem f).conf = s.conf := rfl
@[simp] theorem State.updMem_tx (f) (s : State) : (s.updMem f).tx = s.tx := rfl
@[simp] theorem State.updMem_rx (f) (s : State) : (s.updMem f).rx = s.rx := rfl
@[simp] theorem State.updMem_mwi (f) (s : State) : (s.updMem f).mwi = s.mwi := rfl
@[simp] theorem State.updMem_err (f) (s : State) : (s.updMem f).err = s.err := rfl
@[simp] theorem State.updMem_cfg (f) (s : State) : (s.updMem f).cfg = s.cfg := rfl
@[simp] theorem State.updMem_mem (f) (s : State) : (s.updMem f).mem = f s.mem := rfl
@[simp] theorem State.updMem_env (f) (s : State) : (s.updMem f).env = s.env := rfl
@[simp] theorem State.updMem_bank (f) (s : State) (x : Leg) : (s.updMem f).bank x = s.bank x := rfl
@[simp] theorem State.updMem_updMem (f g) (s : State) : (s.updMem f).updMem g = s.updMem (fun v => g (f v)) := rfl

@[simp] theorem State.updEnv_par (f) (s : State) : (s.updEnv f).par = s.par := rfl
@[simp] theorem State.updEnv_line (f) (s : State) : (s.updEnv f).line = s.line := rfl
@[simp] theorem State.updEnv_banks (f) (s : State) : (s.updEnv f).banks = s.banks := rfl
@[simp] theorem State.updEnv_conf (f) (s : State) : (s.updEnv f).conf = s.conf := rfl
@[simp] theorem State.updEnv_tx (f) (s : State) : (s.updEnv f).tx = s.tx := rfl
@[simp] theorem State.updEnv_rx (f) (s : State) : (s.updEnv f).rx = s.rx := rfl
@[simp] theorem State.updEnv_mwi (f) (s : State) : (s.updEnv f).mwi = s.mwi := rfl
@[simp] theorem State.updEnv_err (f) (s : State) : (s.updEnv f).err = s.err := rfl
@[simp] theorem State.updEnv_cfg (f) (s : State) : (s.updEnv f).cfg = s.cfg := rfl
@[simp] theorem State.updEnv_mem (f) (s : State) : (s.updEnv f).mem = s.mem := rfl
@[simp] theorem State.updEnv_env (f) (s : State) : (s.updEnv f).env = f s.env := rfl
@[simp] theorem State.updEnv_bank (f) (s : State) (x : Leg) : (s.updEnv f).bank x = s.bank x := rfl
@[simp] theorem State.updEnv_updEnv (f g) (s : State) : (s.updEnv f).updEnv g = s.updEnv (fun v => g (f v)) := rfl

@[simp] theorem State.updBank_par (x : Leg) (f) (s : State) : (s.updBank x f).par = s.par := rfl
@[simp] theorem State.updBank_line (x : Leg) (f) (s : State) : (s.updBank x f).line = s.line := rfl
@[simp] theorem State.updBank_conf (x : Leg) (f) (s : State) : (s.updBank x f).conf = s.conf := rfl
@[simp] theorem State.updBank_tx (x : Leg) (f) (s : State) : (s.updBank x f).tx = s.tx := rfl
@[simp] theorem State.updBank_rx (x : Leg) (f) (s : State) : (s.updBank x f).rx = s.rx := rfl
@[simp] theorem State.updBank_mwi (x : Leg) (f) (s : State) : (s.updBank x f).mwi = s.mwi := rfl
@[simp] theorem State.updBank_err (x : Leg) (f) (s : State) : (s.updBank x f).err = s.err := rfl
@[simp] theorem State.updBank_cfg (x : Leg) (f) (s : State) : (s.updBank x f).cfg = s.cfg := rfl
@[simp] theorem State.updBank_mem (x : Leg) (f) (s : State) : (s.updBank x f).mem = s.mem := rfl
@[simp] theorem State.updBank_env (x : Leg) (f) (s : State) : (s.updBank x f).env = s.env := rfl
@[simp] theorem State.updBank_banks (x : Leg) (f) (s : State) : (s.updBank x f).banks = s.banks.upd x f := rfl

@[simp] theorem Banks.upd_get_same (b : Banks) (x : Leg) (f : Bank → Bank) : (b.upd x f).get x = f (b.get x) := by
  cases x <;> rfl

theorem Banks.upd_get_other (b : Banks) {x y : Leg} (h : y ≠ x) (f : Bank → Bank) : (b.upd x f).get y = b.get y := by
  cases x <;> cases y <;> first | rfl | exact absurd rfl h

theorem Banks.upd_get (b : Banks) (x y : Leg) (f : Bank → Bank) :
    (b.upd x f).get y = if y = x then f (b.get y) else b.get y := by
  cases x <;> cases y <;> rfl

@[simp] theorem State.bank_updBank_same (s : State) (x : Leg) (f : Bank → Bank) : (s.updBank x f).bank x = f (s.bank x) :=
  Banks.upd_get_same _ _ _

theorem State.bank_updBank_other (s : State) {x y : Leg} (h : y ≠ x) (f : Bank → Bank) :
    (s.updBank x f).bank y = s.bank y := Banks.upd_get_other _ h _

theorem State.bank_updBank (s : State) (x y : Leg) (f : Bank → Bank) :
    (s.updBank x f).bank y = if y = x then f (s.bank y) else s.bank y := Banks.upd_get _ _ _ _

@[simp] theorem State.bank_r (s : State) : s.bank .r = s.banks.real := rfl
@[simp] theorem State.bank_cw (s : State) : s.bank .cw = s.banks.cw := rfl
@[simp] theorem State.bank_tw (s : State) : s.bank .tw = s.banks.tw := rfl

/-- States are equal when their components are. -/
theorem State.ext_components {s t : State} (hp : s.par = t.par) (hl : s.line = t.line)
    (hb : ∀ x, s.bank x = t.bank x) (hc : s.conf = t.conf) (htx : s.tx = t.tx) (hrx : s.rx = t.rx) (hm : s.mwi = t.mwi) (he : s.err = t.err) (hg : s.cfg = t.cfg)
    (hmem : s.mem = t.mem) (henv : s.env = t.env) : s = t := by
  have hbanks : s.banks = t.banks := by
    have h1 := hb .r
    have h2 := hb .cw
    have h3 := hb .tw
    simp only [State.bank_r, State.bank_cw, State.bank_tw] at h1 h2 h3
    calc s.banks = ⟨s.banks.real, s.banks.cw, s.banks.tw⟩ := rfl
      _ = ⟨t.banks.real, t.banks.cw, t.banks.tw⟩ := by rw [h1, h2, h3]
      _ = t.banks := rfl
  cases s; cases t; simp_all

end Sys2Proof.Machine
end

