-- ==== Sys2Proof/Laws/Memory.lean ====
section
/-! SUPPORT. The buffer memories: reading after writing, the canonical form, and the spaces of spec/20_memory.md R70. -/

namespace Sys2Proof.Machine

/-! ### Reading -/

@[simp] theorem memRead_nil (a : Nat) : memRead [] a = Memory.unlisted := rfl

theorem memRead_append (m n : Memory) (a : Nat) :
    memRead (m ++ n) a = if a ∈ m.map Prod.fst then memRead m a else memRead n a := by
  induction m with
  | nil => simp
  | cons c m ih =>
    obtain ⟨k, b⟩ := c
    by_cases h : k = a
    · simp [memRead, h]
    · have h' : ¬ a = k := fun e => h e.symm
      simp [memRead, h, h', ih]

theorem memRead_absent {m : Memory} {a : Nat} (h : a ∉ m.map Prod.fst) : memRead m a = Memory.unlisted := by
  have := memRead_append m [] a
  simpa [h] using this

theorem memRead_filter (m : Memory) (p : Nat → Bool) (a : Nat) :
    memRead (m.filter fun c => p c.1) a = if p a then memRead m a else Memory.unlisted := by
  induction m with
  | nil => simp
  | cons c m ih =>
    obtain ⟨k, b⟩ := c
    by_cases hk : p k
    · by_cases h : k = a
      · subst h; simp [hk, memRead]
      · simp [hk, memRead, h, ih]
    · by_cases h : k = a
      · subst h; simp [hk, ih]
      · simp [hk, memRead, h, ih]

/-! ### Cells of consecutive bytes -/

theorem memCells_key {k : Nat} {bs : List Byte} {c : Host.Cell} (h : c ∈ memCells k bs) :
    k ≤ c.1 ∧ c.1 < k + bs.length := by
  induction bs generalizing k with
  | nil => simp [memCells] at h
  | cons b bs ih =>
    simp only [memCells] at h
    split at h
    · have := ih h; simp only [List.length_cons]; omega
    · rcases List.mem_cons.1 h with h | h
      · subst h; simp
      · have := ih h; simp only [List.length_cons]; omega

theorem memCells_ne_unlisted {k : Nat} {bs : List Byte} : ∀ c ∈ memCells k bs, c.2 ≠ Memory.unlisted := by
  induction bs generalizing k with
  | nil => simp [memCells]
  | cons b bs ih =>
    intro c hc
    simp only [memCells] at hc
    split at hc
    · exact ih c hc
    · rcases List.mem_cons.1 hc with h | h
      · subst h; assumption
      · exact ih c h

theorem memCells_pairwise (k : Nat) (bs : List Byte) : (memCells k bs).Pairwise fun c d => c.1 < d.1 := by
  induction bs generalizing k with
  | nil => simp [memCells]
  | cons b bs ih =>
    simp only [memCells]
    split
    · exact ih _
    · refine List.pairwise_cons.2 ⟨fun c hc => ?_, ih _⟩
      have := (memCells_key hc).1
      simp only; omega

theorem memRead_memCells (k : Nat) (bs : List Byte) (j : Nat) (h : j < bs.length) :
    memRead (memCells k bs) (k + j) = bs[j] := by
  induction bs generalizing k j with
  | nil => simp at h
  | cons b bs ih =>
    cases j with
    | zero =>
      simp only [memCells, Nat.add_zero, List.getElem_cons_zero]
      split
      · next hb =>
        rw [memRead_absent, hb]
        intro hk
        obtain ⟨c, hc, hck⟩ := List.mem_map.1 hk
        have := (memCells_key hc).1
        omega
      · simp [memRead]
    | succ j =>
      have hj : j < bs.length := by simpa using h
      have := ih (k + 1) j hj
      rw [show k + 1 + j = k + (j + 1) by omega] at this
      simp only [memCells, List.getElem_cons_succ]
      split
      · exact this
      · simp [memRead, this]

/-! ### Writing -/

/-- A byte inside the written range reads as written. -/
theorem memRead_memWrite_inside (m : Memory) (k : Nat) (bs : List Byte) (j : Nat) (h : j < bs.length) :
    memRead (memWrite m k bs) (k + j) = bs[j] := by
  rw [memWrite, List.append_assoc, memRead_append, if_neg, memRead_append]
  · split
    · exact memRead_memCells k bs j h
    · next hn =>
      have h0 := memRead_memCells k bs j h
      rw [memRead_absent hn] at h0
      rw [← h0, memRead_filter m (fun a => decide (k + bs.length ≤ a))]
      simp [h]
  · intro hm
    obtain ⟨c, hc, hck⟩ := List.mem_map.1 hm
    have := (List.mem_filter.1 hc).2
    simp only [decide_eq_true_eq] at this
    omega

/-- A byte outside the written range reads as before. -/
theorem memRead_memWrite_outside (m : Memory) (k : Nat) (bs : List Byte) (a : Nat) (h : a < k ∨ k + bs.length ≤ a) :
    memRead (memWrite m k bs) a = memRead m a := by
  have hc : a ∉ (memCells k bs).map Prod.fst := by
    intro hm
    obtain ⟨c, hc, hck⟩ := List.mem_map.1 hm
    have := memCells_key hc
    omega
  rw [memWrite, List.append_assoc, memRead_append]
  split
  · next hm =>
    obtain ⟨c, hcm, hck⟩ := List.mem_map.1 hm
    have hlt : a < k := by
      have := (List.mem_filter.1 hcm).2
      simp only [decide_eq_true_eq] at this
      omega
    rw [memRead_filter m (fun a => decide (a < k))]
    simp [hlt]
  · next hm =>
    rw [memRead_append, if_neg hc, memRead_filter m (fun a => decide (k + bs.length ≤ a))]
    split
    · rfl
    · next hge =>
      simp only [decide_eq_true_eq] at hge
      have hlt : a < k := by omega
      have hf := memRead_filter m (fun a => decide (a < k)) a
      rw [memRead_absent hm] at hf
      simpa [hlt] using hf

/-- Every write keeps the canonical form. -/
theorem memWrite_wf {m : Memory} (h : Memory.wf m) (k : Nat) (bs : List Byte) : Memory.wf (memWrite m k bs) := by
  obtain ⟨hp, hn⟩ := h
  refine ⟨?_, ?_⟩
  · rw [memWrite, List.pairwise_append, List.pairwise_append]
    refine ⟨⟨hp.filter _, memCells_pairwise k bs, ?_⟩, hp.filter _, ?_⟩
    · intro c hc d hd
      have h1 := (List.mem_filter.1 hc).2
      have h2 := memCells_key hd
      simp only [decide_eq_true_eq] at h1
      omega
    · intro c hc d hd
      have h3 := (List.mem_filter.1 hd).2
      simp only [decide_eq_true_eq] at h3
      rcases List.mem_append.1 hc with hc | hc
      · have h1 := (List.mem_filter.1 hc).2
        simp only [decide_eq_true_eq] at h1
        omega
      · have h2 := memCells_key hc
        omega
  · intro c hc
    rw [memWrite] at hc
    rcases List.mem_append.1 hc with hc | hc
    · rcases List.mem_append.1 hc with hc | hc
      · exact hn c (List.mem_filter.1 hc).1
      · exact memCells_ne_unlisted c hc
    · exact hn c (List.mem_filter.1 hc).1

/-- The empty memory is canonical. -/
theorem reset_mem_wf : Memory.wf State.reset.mem := by decide

/-- A cell after a write was there before or lies in the written range. -/
theorem mem_memWrite {m : Memory} {k : Nat} {bs : List Byte} {c : Host.Cell} (h : c ∈ memWrite m k bs) :
    c ∈ m ∨ (k ≤ c.1 ∧ c.1 < k + bs.length) := by
  rw [memWrite] at h
  rcases List.mem_append.1 h with h | h
  · rcases List.mem_append.1 h with h | h
    · exact .inl (List.mem_filter.1 h).1
    · exact .inr (memCells_key h)
  · exact .inl (List.mem_filter.1 h).1

/-! ### Spaces -/

/-- Two bytes of 16-bit addresses have the same key only if they are the same byte. -/
theorem Space.key_inj {sp sp' : Space} {a a' : Nat} (h : a < 65536) (h' : a' < 65536) (e : sp.key a = sp'.key a') :
    sp = sp' ∧ a = a' := by
  simp only [Space.key] at e
  have hid : sp.id = sp'.id := by omega
  refine ⟨?_, by omega⟩
  cases sp <;> cases sp' <;> simp_all [Space.id]

/-- Every space is smaller than the 16-bit address range (R70), where the parameters fit the map. -/
theorem Space.size_lt {p : Config.Params} (h : p.ok) (sp : Space) : sp.size p < 65536 := by
  obtain ⟨⟨-, -, -, -, -, -, h3, -⟩, -, -, -, -, h1, h2, -⟩ := h
  cases sp <;> simp only [Space.size] <;> omega

/-- What `wr` does: the bytes written read as written, every other byte as before. -/
theorem rd_wr (sp sp' : Space) (a a' : Nat) (bs : List Byte) (s : State) (hb : a + bs.length ≤ 65536) (ha : a' < 65536) :
    rd sp' a' (wr sp a bs s) =
      if h : sp' = sp ∧ a ≤ a' ∧ a' < a + bs.length then bs[a' - a] else rd sp' a' s := by
  simp only [rd, wr, State.updMem_mem]
  split
  · next h =>
    obtain ⟨rfl, h1, h2⟩ := h
    have := memRead_memWrite_inside s.mem (sp'.key a) bs (a' - a) (by omega)
    rwa [show sp'.key a + (a' - a) = sp'.key a' by simp only [Space.key]; omega] at this
  · next h =>
    refine memRead_memWrite_outside s.mem _ bs _ ?_
    by_cases hsp : sp' = sp
    · subst hsp
      have hr : ¬ (a ≤ a' ∧ a' < a + bs.length) := fun hr => h ⟨rfl, hr⟩
      simp only [Space.key]
      omega
    · have hid : sp'.id ≠ sp.id := by
        intro e; apply hsp
        cases sp <;> cases sp' <;> simp_all [Space.id]
      simp only [Space.key]
      omega

/-- `wr` changes the memory alone. -/
@[simp] theorem wr_par (sp a bs) (s : State) : (wr sp a bs s).par = s.par := rfl
@[simp] theorem wr_line (sp a bs) (s : State) : (wr sp a bs s).line = s.line := rfl
@[simp] theorem wr_banks (sp a bs) (s : State) : (wr sp a bs s).banks = s.banks := rfl
@[simp] theorem wr_bank (sp a bs) (s : State) (x : Leg) : (wr sp a bs s).bank x = s.bank x := rfl
@[simp] theorem wr_conf (sp a bs) (s : State) : (wr sp a bs s).conf = s.conf := rfl
@[simp] theorem wr_tx (sp a bs) (s : State) : (wr sp a bs s).tx = s.tx := rfl
@[simp] theorem wr_rx (sp a bs) (s : State) : (wr sp a bs s).rx = s.rx := rfl
@[simp] theorem wr_mwi (sp a bs) (s : State) : (wr sp a bs s).mwi = s.mwi := rfl
@[simp] theorem wr_err (sp a bs) (s : State) : (wr sp a bs s).err = s.err := rfl
@[simp] theorem wr_cfg (sp a bs) (s : State) : (wr sp a bs s).cfg = s.cfg := rfl
@[simp] theorem wr_env (sp a bs) (s : State) : (wr sp a bs s).env = s.env := rfl
@[simp] theorem wr_mem (sp a bs) (s : State) : (wr sp a bs s).mem = memWrite s.mem (sp.key a) bs := rfl

/-- A write inside a space keeps the memory invariant. -/
theorem wr_memInv {s : State} (h : MemInv s) (sp : Space) (a : Nat) (bs : List Byte)
    (hb : a + bs.length ≤ sp.size s.par) : MemInv (wr sp a bs s) := by
  refine ⟨h.par, memWrite_wf h.canonical _ _, fun c hc => ?_⟩
  rcases mem_memWrite hc with hc | ⟨h1, h2⟩
  · exact h.mapped c hc
  · refine ⟨sp, c.1 - sp.key 0, ?_, ?_⟩ <;> simp only [Space.key, wr_par] at * <;> omega

/-- A list read has the length asked for. -/
@[simp] theorem rdList_length (sp : Space) (a n : Nat) (s : State) : (rdList sp a n s).length = n := by
  simp [rdList]

/-- A range reads as it was just written. -/
theorem rdList_wr (sp : Space) (a : Nat) (bs : List Byte) (s : State) (hb : a + bs.length ≤ 65536) :
    rdList sp a bs.length (wr sp a bs s) = bs := by
  refine List.ext_getElem (by simp) fun i h _ => ?_
  have hi : i < bs.length := by simpa using h
  simp [rdList, rd_wr, hb, hi, show a + i < 65536 by omega]

/-! ### Received frames -/

/-- A frame has `FRAME_SAMPLES` samples (R73). -/
@[simp] theorem nextFrame_length (s : State) : (nextFrame s).length = s.par.codec.frameSamples := by simp [nextFrame]

/-- A frame the environment gives in full is received as it stands. -/
theorem nextFrame_of_given {s : State} {f : Config.Frame} {fs : List Config.Frame} (h : s.env.frames = f :: fs)
    (hf : f.length = s.par.codec.frameSamples) : nextFrame s = f := by
  refine List.ext_getElem (by simp [hf]) fun i hi hj => ?_
  simp [nextFrame, h, hj]

/-- What `receiveFrame` does: `RXBUF` reads as the frame, every other byte as before (R73). -/
theorem rd_receiveFrame {s : State} (h : s.par.ok) (sp : Space) (a : Nat) (ha : a < 65536) :
    rd sp a (receiveFrame s) =
      if sp = .rxbuf ∧ a < s.par.codec.frameSamples then (nextFrame s).getD a 0 else rd sp a s := by
  have hs : s.par.codec.frameSamples < 65536 := Space.size_lt h .rxbuf
  rw [receiveFrame, rd_wr _ _ _ _ _ _ (by simp; omega) ha]
  by_cases hc : sp = .rxbuf ∧ a < s.par.codec.frameSamples
  · simp [hc]
  · rw [dif_neg (by simpa using hc), if_neg hc]; rfl

end Sys2Proof.Machine
end

