-- ==== Sys2Proof/Laws/Ops.lean ====
section
/-! SUPPORT. What each shared operation of `Machine/Ops.lean` can do, said once. `Talk s t` says that `t` is `s` but for what
emitting, raising and asking the Line Resource change: the output, the error registers and the answers. -/

namespace Sys2Proof.Machine

open Sys2Proof.Config (Answer)

/-! ### Talking to the outside -/

/-- `t` is `s` but for emitted words, raised errors and drawn answers. -/
structure Talk (s t : State) : Prop where
  par : t.par = s.par
  line : t.line = s.line
  banks : t.banks = s.banks
  conf : t.conf = s.conf
  tx : t.tx = s.tx
  rx : t.rx = s.rx
  mwi : t.mwi = s.mwi
  cfg : t.cfg = s.cfg
  mem : t.mem = s.mem
  events : t.env.events = s.env.events
  frames : t.env.frames = s.env.frames
  framesDrawn : t.env.framesDrawn = s.env.framesDrawn
  out : s.env.out <+: t.env.out
  answers : t.env.answers <:+ s.env.answers

theorem Talk.refl (s : State) : Talk s s :=
  ⟨rfl, rfl, rfl, rfl, rfl, rfl, rfl, rfl, rfl, rfl, rfl, rfl, List.prefix_refl _, List.suffix_refl _⟩

theorem Talk.trans {s t u : State} (h : Talk s t) (k : Talk t u) : Talk s u where
  par := k.par.trans h.par
  line := k.line.trans h.line
  banks := k.banks.trans h.banks
  conf := k.conf.trans h.conf
  tx := k.tx.trans h.tx
  rx := k.rx.trans h.rx
  mwi := k.mwi.trans h.mwi
  cfg := k.cfg.trans h.cfg
  mem := k.mem.trans h.mem
  events := k.events.trans h.events
  frames := k.frames.trans h.frames
  framesDrawn := k.framesDrawn.trans h.framesDrawn
  out := h.out.trans k.out
  answers := k.answers.trans h.answers

theorem Talk.bank {s t : State} (h : Talk s t) (x : Leg) : t.bank x = s.bank x := by simp only [State.bank, h.banks]

theorem Talk.updLine {s t : State} (h : Talk s t) (f) : Talk (s.updLine f) (t.updLine f) := by
  obtain ⟨h0, h1, h2, h3, h4, h5, h6, h7, h8, h9, h10, h11, h12, h13⟩ := h
  constructor <;> simp_all

theorem Talk.updBanks {s t : State} (h : Talk s t) (f) : Talk (s.updBanks f) (t.updBanks f) := by
  obtain ⟨h0, h1, h2, h3, h4, h5, h6, h7, h8, h9, h10, h11, h12, h13⟩ := h
  constructor <;> simp_all

theorem Talk.updBank {s t : State} (h : Talk s t) (x f) : Talk (s.updBank x f) (t.updBank x f) := h.updBanks _

theorem Talk.updConf {s t : State} (h : Talk s t) (f) : Talk (s.updConf f) (t.updConf f) := by
  obtain ⟨h0, h1, h2, h3, h4, h5, h6, h7, h8, h9, h10, h11, h12, h13⟩ := h
  constructor <;> simp_all

theorem Talk.updTx {s t : State} (h : Talk s t) (f) : Talk (s.updTx f) (t.updTx f) := by
  obtain ⟨h0, h1, h2, h3, h4, h5, h6, h7, h8, h9, h10, h11, h12, h13⟩ := h
  constructor <;> simp_all

theorem Talk.updRx {s t : State} (h : Talk s t) (f) : Talk (s.updRx f) (t.updRx f) := by
  obtain ⟨h0, h1, h2, h3, h4, h5, h6, h7, h8, h9, h10, h11, h12, h13⟩ := h
  constructor <;> simp_all

theorem Talk.updMwi {s t : State} (h : Talk s t) (f) : Talk (s.updMwi f) (t.updMwi f) := by
  obtain ⟨h0, h1, h2, h3, h4, h5, h6, h7, h8, h9, h10, h11, h12, h13⟩ := h
  constructor <;> simp_all

/-- What `emit` does: the word is appended to the output. -/
theorem emit_eq (w : ActionWord) (s : State) : emit w s = { s with env := { s.env with out := s.env.out ++ [w] } } := rfl

theorem emit_talk (w : ActionWord) (s : State) : Talk s (emit w s) :=
  ⟨rfl, rfl, rfl, rfl, rfl, rfl, rfl, rfl, rfl, rfl, rfl, rfl, ⟨[w], rfl⟩, List.suffix_refl _⟩

theorem indicate_talk (i : Ind) (s : State) : Talk s (indicate i s) := emit_talk _ s

theorem indicateLeg_talk (x : Leg) (i : Ind) (s : State) : Talk s (indicateLeg x i s) := emit_talk _ s

/-- What `raise` does (R412): the error registers and one `ERRIND`. -/
theorem raise_eq (e : ErrCode) (s : State) :
    raise e s =
      { s with
        err := { lasterr := e.code, lasterrClass := e.errClass, errcnt := countUp s.err.errcnt }
        env := { s.env with out := s.env.out ++ [indWord (cfgLineId s.cfg) hAny (.error e)] } } := rfl

theorem raise_talk (e : ErrCode) (s : State) : Talk s (raise e s) :=
  ⟨rfl, rfl, rfl, rfl, rfl, rfl, rfl, rfl, rfl, rfl, rfl, rfl, ⟨[_], rfl⟩, List.suffix_refl _⟩

/-! ### Asking the Line Resource -/

/-- The answer the next command gets. -/
def nextAnswer (s : State) : Answer :=
  match s.env.answers with
  | a :: _ => a
  | [] => Config.freeAnswer s.env.answersDrawn

/-- The state after a command was emitted and its answer drawn. -/
def asked (w : ActionWord) (s : State) : State := (drawAnswer (emit w s)).2

theorem asked_talk (w : ActionWord) (s : State) : Talk s (asked w s) := by
  have h := emit_talk w s
  unfold asked drawAnswer
  split
  · next a rest he =>
    refine h.trans ⟨rfl, rfl, rfl, rfl, rfl, rfl, rfl, rfl, rfl, rfl, rfl, rfl, List.prefix_refl _, ?_⟩
    simp [he]
  · exact h.trans ⟨rfl, rfl, rfl, rfl, rfl, rfl, rfl, rfl, rfl, rfl, rfl, rfl, List.prefix_refl _, List.suffix_refl _⟩

@[simp] theorem asked_err (w : ActionWord) (s : State) : (asked w s).err = s.err := by
  unfold asked drawAnswer; split <;> rfl

@[simp] theorem asked_out (w : ActionWord) (s : State) : (asked w s).env.out = s.env.out ++ [w] := by
  unfold asked drawAnswer; split <;> rfl

@[simp] theorem asked_answers (w : ActionWord) (s : State) : (asked w s).env.answers = s.env.answers.tail := by
  have he : (emit w s).env.answers = s.env.answers := rfl
  unfold asked drawAnswer
  split
  · next h => rw [he] at h; simp [h]
  · next h => rw [he] at h; simp [h, he]

theorem lrAsk_eq (line : Byte) (h : BitVec 4) (c : LrCmd) (s : State) :
    lrAsk line h c s = (nextAnswer s, asked (lrWord line h c) s) := by
  have he : (emit (lrWord line h c) s).env.answers = s.env.answers := rfl
  have hd : (emit (lrWord line h c) s).env.answersDrawn = s.env.answersDrawn := rfl
  unfold lrAsk asked drawAnswer nextAnswer
  cases ha : s.env.answers <;> simp [he, hd, ha]

/-- What a command with two continuations does: one word, one answer, then the continuation the answer selects. -/
theorem lrCase_eq (line : Byte) (h : BitVec 4) (c : LrCmd) (ok notOk : State → State) (s : State) :
    lrCase line h c ok notOk s =
      match nextAnswer s with
      | .ok => ok (asked (lrWord line h c) s)
      | .notOk => notOk (asked (lrWord line h c) s) := by
  simp only [lrCase, lrAsk_eq]
  cases nextAnswer s <;> rfl

/-- A property of the outcome holds if both continuations give it. -/
theorem lrCase_cases {P : State → Prop} {line : Byte} {h : BitVec 4} {c : LrCmd} {ok notOk : State → State} {s : State}
    (hok : P (ok (asked (lrWord line h c) s))) (hno : P (notOk (asked (lrWord line h c) s))) :
    P (lrCase line h c ok notOk s) := by
  rw [lrCase_eq]; cases nextAnswer s <;> assumption

/-- What a non-essential command does: it talks. -/
theorem lrTry_talk (line : Byte) (h : BitVec 4) (c : LrCmd) (s : State) : Talk s (lrTry line h c s) :=
  lrCase_cases (P := Talk s) (asked_talk _ s) ((asked_talk _ s).trans (raise_talk _ _))

theorem lrLeg_talk (x : Leg) (c : LrCmd) (s : State) : Talk s (lrLeg x c s) := lrTry_talk _ _ c s

theorem lrReal_talk (c : LrCmd) (s : State) : Talk s (lrReal c s) := lrTry_talk _ _ c s

/-- A non-essential command that is accepted only emits its word. -/
theorem lrTry_accepted {line : Byte} {h : BitVec 4} {c : LrCmd} {s : State} (hs : nextAnswer s = .ok) :
    lrTry line h c s = asked (lrWord line h c) s := by
  simp [lrTry, lrCase_eq, hs]

/-! ### Sequencing -/

@[simp] theorem onlyIf_true {c : State → Bool} {f : State → State} {s : State} (h : c s = true) : onlyIf c f s = f s := by
  simp [onlyIf, h]

@[simp] theorem onlyIf_false {c : State → Bool} {f : State → State} {s : State} (h : c s = false) : onlyIf c f s = s := by
  simp [onlyIf, h]

theorem onlyIf_cases {P : State → Prop} {c : State → Bool} {f : State → State} {s : State}
    (hf : c s = true → P (f s)) (hs : c s = false → P s) : P (onlyIf c f s) := by
  unfold onlyIf; split
  · next h => exact hf h
  · next h => exact hs (by simpa using h)

theorem ifElse_cases {P : State → Prop} {c : State → Bool} {f g : State → State} {s : State}
    (hf : c s = true → P (f s)) (hg : c s = false → P (g s)) : P (ifElse c f g s) := by
  unfold ifElse; split
  · next h => exact hf h
  · next h => exact hg (by simpa using h)

/-! ### Tones and `goto` (R133) -/

/-- What stopping the tone does to the state: `TONE` is NONE. -/
theorem stopTone_talk (s : State) : Talk (s.updLine fun l => { l with tone := .none }) (stopTone s) := by
  unfold stopTone
  refine onlyIf_cases (P := Talk _) (fun _ => ?_) (fun h => ?_)
  · exact (lrReal_talk _ _).updLine _
  · have ht : s.line.tone = .none := by simpa using h
    have : s.updLine (fun l => { l with tone := .none }) = s := by
      cases s with | mk par line => cases line; simp_all [State.updLine]
    rw [this]; exact Talk.refl s

/-- What starting a tone does to the state: `TONE` holds it. -/
theorem startTone_talk (t : Tone) (s : State) : Talk (s.updLine fun l => { l with tone := t }) (startTone t s) :=
  (lrReal_talk _ _).updLine _

/-- The line registers after `goto ST = x`. -/
def LineRegs.goneTo (x : CallState) (l : LineRegs) : LineRegs :=
  { l with tone := if x = l.st then l.tone else .none, st := x }

/-- What `goto` does to the state: the new `ST`, and no tone if `ST` changes. -/
theorem goTo_talk (x : CallState) (s : State) : Talk (s.updLine (LineRegs.goneTo x)) (goTo x s) := by
  unfold goTo onlyIf
  dsimp only
  split
  · next h =>
    have hx : ¬ x = s.line.st := by simpa using h
    have := (stopTone_talk s).updLine fun l => { l with st := x }
    simpa [LineRegs.goneTo, State.updLine, hx] using this
  · next h =>
    have hx : x = s.line.st := by simpa using h
    have : s.updLine (LineRegs.goneTo x) = s.updLine fun l => { l with st := x } := by
      simp [LineRegs.goneTo, State.updLine, ← hx]
    rw [this]; exact Talk.refl _

/-! ### Fetching and entry -/

/-- What fetching does: it takes the first word of the queue, and nothing else. -/
theorem fetch_eq {s : State} {w : Word} {rest : List Word} (h : s.env.events = w :: rest) :
    fetch s = some (w, { s with env := { s.env with events := rest } }) := by
  simp [fetch, h, State.updEnv]

theorem fetch_empty {s : State} (h : s.env.events = []) : fetch s = none := by simp [fetch, h]

/-- What the entry filter of line events lets through (R130). -/
theorem lineEntry_ready {b c : Bool} {body : State → State} {s : State} (h : LineReady s) :
    lineEntry b c body s = body s := by
  have hr : (s.line.st == .releasing) = false := by simpa using h.notReleasing
  simp [lineEntry, h.configured, h.noAlarm, hr]

theorem lineEntry_cases {P : State → Prop} {b c : Bool} {body : State → State} {s : State}
    (hbody : s.line.configured = true → P (body s)) (hnc : P (raise .notConfigured s)) (hun : P (raise .unexpected s)) :
    P (lineEntry b c body s) := by
  unfold lineEntry
  split
  · exact hnc
  · next h =>
    split
    · exact hun
    · split
      · exact hun
      · exact hbody (by simpa using h)

/-- What the entry of run-time host commands lets through (R386). -/
theorem hostEntry_configured {body : State → State} {s : State} (h : s.line.configured = true) :
    hostEntry body s = body s := by simp [hostEntry, h]

theorem hostEntry_cases {P : State → Prop} {body : State → State} {s : State}
    (hbody : s.line.configured = true → P (body s)) (hnc : P (raise .notConfigured s)) : P (hostEntry body s) := by
  unfold hostEntry
  split
  · exact hnc
  · next h => exact hbody (by simpa using h)

/-- What a leg operand does: a leg, or `E_BADARG` (R110). -/
theorem withLeg_cases {P : State → Prop} {leg : BitVec 2} {body : Leg → State → State} {s : State}
    (hbody : ∀ x, legOf leg = some x → P (body x s)) (hbad : legOf leg = none → P (raise .badArg s)) :
    P (withLeg leg body s) := by
  unfold withLeg
  split
  · next x h => exact hbody x h
  · next h => exact hbad h

end Sys2Proof.Machine
end

