-- ==== Sys2Proof/Laws/PerInstr.lean ====
section
/-! SUPPORT. One lemma per instruction: the encoder writes the `W[31:24]` that the opcode table gives the row
(spec/30_encoding.md R103 to R105). -/

namespace Sys2Proof.Laws.OpcodeByte

/-- `W[31:24]` of a row of the opcode table. -/
def opcode : Instr → Byte
  | .hwNone => 0x00
  | .hwOnhook => 0x01
  | .hwOffhook => 0x02
  | .hwRingoffhook => 0x03
  | .hwWinkflash => 0x04
  | .hwRingbegin => 0x05
  | .hwRingoff => 0x06
  | .hwDialcomplete => 0x07
  | .hwPolarity => 0x08
  | .hwAlarm => 0x09
  | .hwNoalarm => 0x0A
  | .hwPulsedigit _ => 0x0B
  | .hwDtmfdigit _ => 0x0C
  | .fakeNone => 0x40
  | .fakeOnhook => 0x41
  | .fakeOffhook => 0x42
  | .fakeRingoffhook => 0x43
  | .fakeWinkflash => 0x44
  | .fakeRingbegin => 0x45
  | .fakeRingoff => 0x46
  | .fakeDialcomplete => 0x47
  | .fakePolarity => 0x48
  | .fakeAlarm => 0x49
  | .fakeNoalarm => 0x4A
  | .fakePulsedigit _ => 0x4B
  | .fakeDtmfdigit _ => 0x4C
  | .hostCfgwr _ _ => 0x81
  | .hostCfgdone => 0x82
  | .hostReset => 0x83
  | .hostMemwr _ _ _ => 0x84
  | .hostRdreg _ => 0x85
  | .hostMemrd _ _ => 0x86
  | .hostAlloc _ => 0x90
  | .hostRelease _ => 0x91
  | .hostSwap _ _ => 0x92
  | .hostReconcile => 0x93
  | .hostSlaveadd _ _ => 0x94
  | .hostSlavedel _ => 0x95
  | .hostMasterset _ _ _ _ => 0x96
  | .hostMasterclr => 0x97
  | .hostInconf _ => 0x98
  | .hostCall _ _ _ => 0xA0
  | .hostUp _ => 0xA1
  | .hostHangup _ => 0xA2
  | .hostCwoffer _ => 0xA3
  | .hostPoll _ => 0xA4
  | .hostSetlinear _ _ => 0xA5
  | .hostMwinotify _ => 0xA6
  | .hostIndicate _ => 0xA7
  | .timeTick _ _ => 0xC1
  | .timeLrfatal => 0xC2

/-- The encoded word carries the row's opcode byte. -/
def Statement (i : Instr) : Prop := slice (encode i) 24 8 = opcode i

theorem slice_evWord (src : BitVec 2) (code : BitVec 6) (a8 : Byte) (a16 : Half) :
    slice (evWord src code a8 a16) 24 8 = src ++ code := by
  simp only [evWord, slice]
  ext i hi
  simp only [BitVec.getElem_extractLsb', BitVec.getLsbD_append]
  simp [show ¬ (24 + i < 16) by omega, show ¬ (24 + i - 16 < 8) by omega, show 24 + i - 16 - 8 = i by omega]
  split
  · next h => rw [BitVec.getElem_append, dif_pos h, BitVec.getLsbD_eq_getElem h]
  · next h =>
    rw [BitVec.getElem_append, dif_neg h, BitVec.getLsbD_eq_getElem (show i - 6 < 2 by omega)]

theorem hwNone : Statement (.hwNone) := slice_evWord _ _ _ _
theorem hwOnhook : Statement (.hwOnhook) := slice_evWord _ _ _ _
theorem hwOffhook : Statement (.hwOffhook) := slice_evWord _ _ _ _
theorem hwRingoffhook : Statement (.hwRingoffhook) := slice_evWord _ _ _ _
theorem hwWinkflash : Statement (.hwWinkflash) := slice_evWord _ _ _ _
theorem hwRingbegin : Statement (.hwRingbegin) := slice_evWord _ _ _ _
theorem hwRingoff : Statement (.hwRingoff) := slice_evWord _ _ _ _
theorem hwDialcomplete : Statement (.hwDialcomplete) := slice_evWord _ _ _ _
theorem hwPolarity : Statement (.hwPolarity) := slice_evWord _ _ _ _
theorem hwAlarm : Statement (.hwAlarm) := slice_evWord _ _ _ _
theorem hwNoalarm : Statement (.hwNoalarm) := slice_evWord _ _ _ _
theorem hwPulsedigit (digit : Byte) : Statement (.hwPulsedigit digit) := slice_evWord _ _ _ _
theorem hwDtmfdigit (digit : Byte) : Statement (.hwDtmfdigit digit) := slice_evWord _ _ _ _
theorem fakeNone : Statement (.fakeNone) := slice_evWord _ _ _ _
theorem fakeOnhook : Statement (.fakeOnhook) := slice_evWord _ _ _ _
theorem fakeOffhook : Statement (.fakeOffhook) := slice_evWord _ _ _ _
theorem fakeRingoffhook : Statement (.fakeRingoffhook) := slice_evWord _ _ _ _
theorem fakeWinkflash : Statement (.fakeWinkflash) := slice_evWord _ _ _ _
theorem fakeRingbegin : Statement (.fakeRingbegin) := slice_evWord _ _ _ _
theorem fakeRingoff : Statement (.fakeRingoff) := slice_evWord _ _ _ _
theorem fakeDialcomplete : Statement (.fakeDialcomplete) := slice_evWord _ _ _ _
theorem fakePolarity : Statement (.fakePolarity) := slice_evWord _ _ _ _
theorem fakeAlarm : Statement (.fakeAlarm) := slice_evWord _ _ _ _
theorem fakeNoalarm : Statement (.fakeNoalarm) := slice_evWord _ _ _ _
theorem fakePulsedigit (digit : Byte) : Statement (.fakePulsedigit digit) := slice_evWord _ _ _ _
theorem fakeDtmfdigit (digit : Byte) : Statement (.fakeDtmfdigit digit) := slice_evWord _ _ _ _
theorem hostCfgwr (reg : Byte) (value : Half) : Statement (.hostCfgwr reg value) := slice_evWord _ _ _ _
theorem hostCfgdone : Statement (.hostCfgdone) := slice_evWord _ _ _ _
theorem hostReset : Statement (.hostReset) := slice_evWord _ _ _ _
theorem hostMemwr (space : BitVec 3) (addr data : Byte) : Statement (.hostMemwr space addr data) := slice_evWord _ _ _ _
theorem hostRdreg (reg : Byte) : Statement (.hostRdreg reg) := slice_evWord _ _ _ _
theorem hostMemrd (space : BitVec 3) (addr : Half) : Statement (.hostMemrd space addr) := slice_evWord _ _ _ _
theorem hostAlloc (leg : BitVec 2) : Statement (.hostAlloc leg) := slice_evWord _ _ _ _
theorem hostRelease (leg : BitVec 2) : Statement (.hostRelease leg) := slice_evWord _ _ _ _
theorem hostSwap (a b : BitVec 2) : Statement (.hostSwap a b) := slice_evWord _ _ _ _
theorem hostReconcile : Statement (.hostReconcile) := slice_evWord _ _ _ _
theorem hostSlaveadd (line : Byte) (law : Bool) : Statement (.hostSlaveadd line law) := slice_evWord _ _ _ _
theorem hostSlavedel (line : Byte) : Statement (.hostSlavedel line) := slice_evWord _ _ _ _
theorem hostMasterset (line : Byte) (valid native : Bool) (confno : Byte) : Statement (.hostMasterset line valid native confno) := slice_evWord _ _ _ _
theorem hostMasterclr : Statement (.hostMasterclr) := slice_evWord _ _ _ _
theorem hostInconf (b : Bool) : Statement (.hostInconf b) := slice_evWord _ _ _ _
theorem hostCall (mode : Bool) (n tag : Byte) : Statement (.hostCall mode n tag) := slice_evWord _ _ _ _
theorem hostUp (leg : BitVec 2) : Statement (.hostUp leg) := slice_evWord _ _ _ _
theorem hostHangup (leg : BitVec 2) : Statement (.hostHangup leg) := slice_evWord _ _ _ _
theorem hostCwoffer (tag : Byte) : Statement (.hostCwoffer tag) := slice_evWord _ _ _ _
theorem hostPoll (leg : BitVec 2) : Statement (.hostPoll leg) := slice_evWord _ _ _ _
theorem hostSetlinear (leg : BitVec 2) (b : Bool) : Statement (.hostSetlinear leg b) := slice_evWord _ _ _ _
theorem hostMwinotify (b : Bool) : Statement (.hostMwinotify b) := slice_evWord _ _ _ _
theorem hostIndicate (cond : BitVec 2) : Statement (.hostIndicate cond) := slice_evWord _ _ _ _
theorem timeTick (rxvalid txready : Bool) : Statement (.timeTick rxvalid txready) := slice_evWord _ _ _ _
theorem timeLrfatal : Statement (.timeLrfatal) := slice_evWord _ _ _ _

end Sys2Proof.Laws.OpcodeByte
end

