-- ==== Sys2Proof/Laws/Procedures.lean ====
section
/-! SUPPORT. What the procedures that many rules call can do, said once: releasing a leg, discarding a spill, the exchange of
banks, and the reconciliation pass. -/

namespace Sys2Proof.Machine

/-! ### Frames -/

theorem SameBytes.of_mem {s t : State} (h : t.mem = s.mem) : SameBytes s t := fun sp a _ => by simp only [rd, h]

theorem SameBytes.refl (s : State) : SameBytes s s := .of_mem rfl

theorem SameBytes.trans {s t u : State} (h : SameBytes s t) (k : SameBytes t u) : SameBytes s u :=
  fun sp a ha => (k sp a ha).trans (h sp a ha)

theorem SameBanks.refl (s : State) : SameBanks s s := fun _ => rfl

theorem SameBanks.trans {s t u : State} (h : SameBanks s t) (k : SameBanks t u) : SameBanks s u :=
  fun x => (k x).trans (h x)

theorem PassFrame.refl (s : State) : PassFrame s s :=
  ⟨rfl, rfl, .refl s, rfl, rfl, rfl, rfl, rfl, .refl s, ⟨rfl, rfl⟩⟩

theorem PassFrame.trans {s t u : State} (h : PassFrame s t) (k : PassFrame t u) : PassFrame s u :=
  ⟨k.par.trans h.par, k.line.trans h.line, h.banks.trans k.banks, k.conf.trans h.conf, k.tx.trans h.tx, k.rx.trans h.rx,
    k.mwi.trans h.mwi, k.cfg.trans h.cfg, h.bytes.trans k.bytes,
    ⟨k.inputs.events.trans h.inputs.events, k.inputs.frames.trans h.inputs.frames⟩⟩

/-- Talking is within the frame of a pass. -/
theorem Talk.passFrame {s t : State} (h : Talk s t) : PassFrame s t :=
  ⟨h.par, h.line, fun x => by rw [h.bank], by rw [h.conf], h.tx, h.rx, h.mwi, h.cfg, .of_mem h.mem, ⟨h.events, h.frames⟩⟩

/-- A logical bank's fields. -/
theorem Bank.logical_fields {a b : Bank} (h : a.logical = b.logical) :
    a.alloc = b.alloc ∧ a.res = b.res ∧ a.owned = b.owned ∧ a.owner = b.owner ∧ a.in3way = b.in3way ∧
      a.linear = b.linear ∧ a.pend = b.pend := by
  cases a; cases b; simp_all [Bank.logical]

/-! ### The reconciliation pass (spec/42_conference.md R222) -/

theorem updateConfno_frame (s : State) : PassFrame s (updateConfno s) := by
  unfold updateConfno
  split
  · exact ⟨rfl, rfl, .refl _, rfl, rfl, rfl, rfl, rfl, .of_mem rfl, ⟨rfl, rfl⟩⟩
  · split
    · exact ⟨rfl, rfl, .refl _, rfl, rfl, rfl, rfl, rfl, .of_mem rfl, ⟨rfl, rfl⟩⟩
    · exact .refl s

theorem updCur_frame (x : Leg) (d : Descriptor) (s : State) :
    PassFrame s (s.updBank x fun b => { b with cur := d }) := by
  refine ⟨rfl, rfl, fun y => ?_, rfl, rfl, rfl, rfl, rfl, .of_mem rfl, ⟨rfl, rfl⟩⟩
  rw [State.bank_updBank]
  split <;> rfl

theorem reconcileLeg_frame (x : Leg) (s : State) : PassFrame s (reconcileLeg x s) := by
  unfold reconcileLeg
  dsimp only
  split
  · exact lrCase_cases (P := PassFrame s) ((asked_talk _ s).passFrame.trans (updCur_frame x _ _))
      ((asked_talk _ s).passFrame.trans (raise_talk _ _).passFrame)
  · exact .refl s

theorem setSlaveCur_frame (i : Nat) (d : Descriptor) (s : State) : PassFrame s (setSlaveCur i d s) := by
  refine ⟨rfl, rfl, .refl _, ?_, rfl, rfl, rfl, rfl, .of_mem rfl, ⟨rfl, rfl⟩⟩
  simp only [setSlaveCur, State.updConf_conf, ConfRegs.logical]
  congr 1
  ext j hj
  simp only [Vector.getElem_map, Vector.getElem_setIfInBounds, slaveAt]
  split
  · next h => subst h; simp [hj]
  · rfl

theorem reconcileSlave_frame (i : Nat) (s : State) : PassFrame s (reconcileSlave i s) := by
  unfold reconcileSlave
  dsimp only
  split
  · exact lrCase_cases (P := PassFrame s) ((asked_talk _ s).passFrame.trans (setSlaveCur_frame i _ _))
      ((asked_talk _ s).passFrame.trans (raise_talk _ _).passFrame)
  · exact .refl s

/-- What a pass leaves unchanged: all but the shadows, the conference number, the errors and the output. -/
theorem reconcilePass_frame (s : State) : PassFrame s (reconcilePass s) :=
  (updateConfno_frame s).trans <| (reconcileLeg_frame .r _).trans <| (reconcileLeg_frame .cw _).trans <|
    (reconcileLeg_frame .tw _).trans <| (reconcileSlave_frame 0 _).trans <| (reconcileSlave_frame 1 _).trans <|
    (reconcileSlave_frame 2 _).trans (reconcileSlave_frame 3 _)

/-! ### Banks and spills -/

/-- What `RELEASE_LEG` does (R194): the bank is empty, the rest only talk. -/
theorem releaseLeg_talk (x : Leg) (s : State) : Talk (s.updBank x fun _ => Bank.empty) (releaseLeg x s) := by
  refine Talk.updBank ?_ x _
  refine Talk.trans ?_ (lrLeg_talk x _ _)
  refine Talk.trans (t := onlyIf (fun s => (s.bank x).cur != descNone) (lrLeg x (.setConf descNone)) s) ?_ ?_
  · exact onlyIf_cases (P := Talk s) (fun _ => lrLeg_talk x _ s) (fun _ => .refl s)
  · exact onlyIf_cases (P := Talk _) (fun _ => lrLeg_talk x _ _) (fun _ => .refl _)

/-- The state after the linear mode of Real was restored, without the words. -/
def linearRestored (s : State) : State :=
  if s.tx.linSaved then
    (s.updBank .r fun b => { b with linear := true }).updTx fun t => { t with linSaved := false }
  else s

theorem restoreLinear_talk (s : State) : Talk (linearRestored s) (restoreLinear s) := by
  unfold restoreLinear onlyIf linearRestored
  dsimp only
  split
  · exact ((lrReal_talk _ s).updBank _ _).updTx _
  · exact .refl s

/-- The state after a spill was discarded, without the words (R259). -/
def spillDiscarded (s : State) : State :=
  (linearRestored ((destroySpill s).updLine fun l => { l with postwin := 0 })).updConf
    fun c => { c with confSusp := false, saveconf := descNone }

theorem spillDiscard_talk (s : State) : Talk (spillDiscarded s) (spillDiscard s) := (restoreLinear_talk _).updConf _

/-- Law, gain and echo-cancel commands only talk. -/
theorem applyDefaults_talk (s : State) : Talk s (applyDefaults s) :=
  (lrReal_talk _ _).trans ((lrReal_talk _ _).trans (lrReal_talk _ _))

/-- What the exchange of `DO_SWAP` does (R29): each of the two banks has the other's fields but keeps its own `PEND`; the
third bank is unchanged. -/
theorem exchangeBanks_bank {a b : Leg} (h : a ≠ b) (x : Leg) (s : State) :
    (exchangeBanks a b s).bank x =
      if x = a then { s.bank b with pend := (s.bank a).pend }
      else if x = b then { s.bank a with pend := (s.bank b).pend }
      else s.bank x := by
  cases a <;> cases b <;> cases x <;> first | exact absurd rfl h | rfl

/-- The exchange touches the banks alone. -/
theorem exchangeBanks_eq (a b : Leg) (s : State) :
    exchangeBanks a b s = { s with banks := (exchangeBanks a b s).banks } := rfl

end Sys2Proof.Machine
end

