-- ==== Sys2Proof/Tests/Slice0.lean ====
section
/-! SUPPORT. The model's own tests: the well-formedness smoke, the decoding of every row's word, one or two steps per
instruction whose expected words and registers are those of spec/95_test_vectors.md (V numbers) or worked out from the rule
named, and a witness for every statement that has hypotheses. -/

namespace Sys2Proof.Tests

open Sys2Proof Sys2Proof.Machine
open Sys2Proof.Config (Answer)

/-! ### Small states -/

/-- Boot B5 (spec/95_test_vectors.md section 3): Line 5, loop start, FEAT 0x0407, and a Line Resource that accepts. -/
def b5 : State :=
  { State.reset with
    line := { State.reset.line with configured := true }
    cfg := ((State.reset.cfg.set 0 2).set 1 0x0407).set 15 5
    env := { Env.reset with answers := List.replicate 64 .ok } }

/-- `s` with another value of one configuration register. -/
def withCfg (n : Fin cfgCount) (v : Half) (s : State) : State := { s with cfg := s.cfg.set n v }

/-- `s` whose next command is not answered `OK`. -/
def refusing (s : State) : State := { s with env := { s.env with answers := .notOk :: s.env.answers } }

/-- `s` with the leg allocated on a handle and owned by a tag. -/
def withCall (x : Leg) (h : Handle) (tag : Byte) (s : State) : State :=
  s.updBank x fun _ => { Bank.empty with alloc := true, res := h, owned := true, owner := tag }

/-- `s` with one event word delivered. -/
def deliver (w : Word) (s : State) : State := s.updEnv fun e => { e with events := [w] }

/-- "call 7": a rung station that answered, tag 7. -/
def call7 : State :=
  (withCall .r 0 7 b5).updLine fun l =>
    { l with st := .active, hook := true, calldir := .outRing, answered := true, curleg := some .r }

/-- "call 7" with a second call, tag 8, on CallWaiting. -/
def call78 : State := withCall .cw 1 8 call7

/-- "call 7" with a party on ThreeWay, tag 3. -/
def call73 : State := withCall .tw 1 3 call7

/-- A seized line: V21. -/
def seized : State :=
  (withCall .r 0 0 b5).updLine fun l =>
    { l with st := .offered, hook := true, calldir := .inbound, tone := .dialtone, curleg := some .r }

/-- A line that rings from the far side: V25. -/
def ringIn : State :=
  (withCall .r 0 0 b5).updLine fun l =>
    { l with st := .offered, calldir := .inbound, ringing := true, ringt := 400 }

/-- A line whose station is rung, tag 7. -/
def ringOut : State :=
  (withCall .r 0 7 b5).updLine fun l =>
    { l with st := .offered, calldir := .outRing, ringing := true, ringt := 400 }

/-- A line that dials out, tag 2. -/
def dialOut : State :=
  (withCall .r 0 2 b5).updLine fun l =>
    { l with st := .offered, hook := true, calldir := .outDial, diallen := 4, curleg := some .r }

/-- A three-way build in progress: the new call on Real, tag 3 held on ThreeWay. -/
def building : State :=
  (withCall .r 1 0 (withCall .tw 0 3 call7)).updLine fun l => { l with st := .threeWayDialing, tone := .dialrecall }

/-- A line in its guard time. -/
def releasing : State := b5.updLine fun l => { l with st := .releasing, guardUntil := 100 }

/-- A line in alarm. -/
def alarmed : State := b5.updLine fun l => { l with inalarm := true }

/-- Reset with a Line Resource that accepts. -/
def fresh : State := { State.reset with env := { Env.reset with answers := List.replicate 64 .ok } }

/-- A message that is being sent to an established call. -/
def sending : State :=
  { call7 with
    tx := { kind := .cid, len := 400, rd := 0, go := true, linSaved := true }
    conf := { call7.conf with confSusp := true } }

/-- The engine sends a spill on an Idle line. -/
def mwiSpilling : State :=
  { withCfg 1 0x0100 b5 with
    mwi := { st := .sendSpill, deadline := 0, pending := false, msgs := true }
    tx := { kind := .mwi, len := 4000, rd := 160, go := true, linSaved := false }
    conf := { b5.conf with confSusp := true } }

/-! ### One step -/

/-- The state after a word was delivered to `s`. -/
def after (w : Nat) (s : State) : State :=
  match step (s.withFetchWord 32 w) with
  | .next t => t
  | .refused _ => s

/-- The action words a delivered word emits. -/
def sent (w : Nat) (s : State) : List Nat := (newWords s (after w s)).map (·.toNat)

/-! ### Well-formedness smoke -/

theorem test_wf_leg3 :
    (WellFormed (.hostAlloc 3) || WellFormed (.hostRelease 3) || WellFormed (.hostSwap 3 0) || WellFormed (.hostSwap 0 3)
      || WellFormed (.hostUp 3) || WellFormed (.hostHangup 3) || WellFormed (.hostPoll 3)
      || WellFormed (.hostSetlinear 3 true)) = false := by decide
theorem test_wf_legs : (WellFormed (.hostAlloc 2) && WellFormed (.hostSwap 2 1) && WellFormed (.hostPoll 0)) = true := by decide
theorem test_wf_pulse : (WellFormed (.hwPulsedigit 0x2A) || WellFormed (.fakePulsedigit 0x3A)) = false := by decide
theorem test_wf_dtmf : (WellFormed (.hwDtmfdigit 0x45) || WellFormed (.fakeDtmfdigit 0x40)) = false := by decide
theorem test_wf_digits : (WellFormed (.hwPulsedigit 0x39) && WellFormed (.hwDtmfdigit 0x44)) = true := by decide
theorem test_wf_cfg_number : WellFormed (.hostCfgwr 0x1D 0) = false := by decide
theorem test_wf_cfg_sig : WellFormed (.hostCfgwr 0x00 11) = false := by decide
theorem test_wf_cfg_cidcfg : (WellFormed (.hostCfgwr 0x02 3) || WellFormed (.hostCfgwr 0x02 0xC)) = false := by decide
theorem test_wf_cfg_legal : (WellFormed (.hostCfgwr 0x00 10) && WellFormed (.hostCfgwr 0x1C 0xFFFF)) = true := by decide
theorem test_wf_memwr : (WellFormed (.hostMemwr 2 0 0) || WellFormed (.hostMemwr 0 64 0)) = false := by decide
theorem test_wf_memrd : (WellFormed (.hostMemrd 7 0) || WellFormed (.hostMemrd 3 160)) = false := by decide
theorem test_wf_mem_legal : (WellFormed (.hostMemwr 1 63 0) && WellFormed (.hostMemrd 4 32767)) = true := by decide

/-! ### Decoding: the word of every row, written out from spec/30_encoding.md R103 to R105 -/

theorem test_decode_hw :
    decode 0x00000000 = .ok .hwNone ∧ decode 0x01000000 = .ok .hwOnhook ∧ decode 0x02000000 = .ok .hwOffhook ∧
    decode 0x03000000 = .ok .hwRingoffhook ∧ decode 0x04000000 = .ok .hwWinkflash ∧ decode 0x05000000 = .ok .hwRingbegin ∧
    decode 0x06000000 = .ok .hwRingoff ∧ decode 0x07000000 = .ok .hwDialcomplete ∧ decode 0x08000000 = .ok .hwPolarity ∧
    decode 0x09000000 = .ok .hwAlarm ∧ decode 0x0A000000 = .ok .hwNoalarm ∧ decode 0x0B000035 = .ok (.hwPulsedigit 0x35) ∧
    decode 0x0C000023 = .ok (.hwDtmfdigit 0x23) := by
  refine ⟨?_, ?_, ?_, ?_, ?_, ?_, ?_, ?_, ?_, ?_, ?_, ?_, ?_⟩ <;> rfl

theorem test_decode_fake :
    decode 0x40000000 = .ok .fakeNone ∧ decode 0x41000000 = .ok .fakeOnhook ∧ decode 0x42000000 = .ok .fakeOffhook ∧
    decode 0x43000000 = .ok .fakeRingoffhook ∧ decode 0x44000000 = .ok .fakeWinkflash ∧
    decode 0x45000000 = .ok .fakeRingbegin ∧ decode 0x46000000 = .ok .fakeRingoff ∧
    decode 0x47000000 = .ok .fakeDialcomplete ∧ decode 0x48000000 = .ok .fakePolarity ∧
    decode 0x49000000 = .ok .fakeAlarm ∧ decode 0x4A000000 = .ok .fakeNoalarm ∧
    decode 0x4B000039 = .ok (.fakePulsedigit 0x39) ∧ decode 0x4C000044 = .ok (.fakeDtmfdigit 0x44) := by
  refine ⟨?_, ?_, ?_, ?_, ?_, ?_, ?_, ?_, ?_, ?_, ?_, ?_, ?_⟩ <;> rfl

theorem test_decode_host_setup :
    decode 0x8111FFFF = .ok (.hostCfgwr 0x11 0xFFFF) ∧ decode 0x82000000 = .ok .hostCfgdone ∧
    decode 0x83000000 = .ok .hostReset ∧ decode 0x84010337 = .ok (.hostMemwr 1 3 0x37) ∧
    decode 0x85800000 = .ok (.hostRdreg 0x80) ∧ decode 0x86067F00 = .ok (.hostMemrd 6 0x7F00) := by
  refine ⟨?_, ?_, ?_, ?_, ?_, ?_⟩ <;> rfl

theorem test_decode_host_legs :
    decode 0x90020000 = .ok (.hostAlloc 2) ∧ decode 0x91010000 = .ok (.hostRelease 1) ∧
    decode 0x92210000 = .ok (.hostSwap 2 1) ∧ decode 0x93000000 = .ok .hostReconcile ∧
    decode 0x94060001 = .ok (.hostSlaveadd 6 true) ∧ decode 0x95060000 = .ok (.hostSlavedel 6) ∧
    decode 0x96050205 = .ok (.hostMasterset 5 true false 5) ∧ decode 0x96050105 = .ok (.hostMasterset 5 false true 5) ∧
    decode 0x97000000 = .ok .hostMasterclr ∧ decode 0x98000001 = .ok (.hostInconf true) := by
  refine ⟨?_, ?_, ?_, ?_, ?_, ?_, ?_, ?_, ?_, ?_⟩ <;> rfl

theorem test_decode_host_calls :
    decode 0xA0010402 = .ok (.hostCall true 4 2) ∧ decode 0xA1000000 = .ok (.hostUp 0) ∧
    decode 0xA2020000 = .ok (.hostHangup 2) ∧ decode 0xA3000008 = .ok (.hostCwoffer 8) ∧
    decode 0xA4010000 = .ok (.hostPoll 1) ∧ decode 0xA5010001 = .ok (.hostSetlinear 1 true) ∧
    decode 0xA6000001 = .ok (.hostMwinotify true) ∧ decode 0xA7020000 = .ok (.hostIndicate 2) := by
  refine ⟨?_, ?_, ?_, ?_, ?_, ?_, ?_, ?_⟩ <;> rfl

theorem test_decode_time :
    decode 0xC1000002 = .ok (.timeTick true false) ∧ decode 0xC1000001 = .ok (.timeTick false true) ∧
    decode 0xC2000000 = .ok .timeLrfatal := by
  refine ⟨?_, ?_, ?_⟩ <;> rfl

/-- R109: undefined codes of each source. -/
theorem test_decode_undefined :
    decode 0x0D000000 = .error (.undefinedHw 0x0D) ∧ decode 0x7F000000 = .error (.undefinedFake 0x3F) ∧
    decode 0x87000000 = .error (.undefinedHost 0x07) ∧ decode 0xC3000000 = .error (.undefinedTime 0x03) := by
  refine ⟨?_, ?_, ?_, ?_⟩ <;> rfl

/-- R100: operand bits a row does not define are ignored. -/
theorem test_decode_ignores : decode 0x01FFFFFF = .ok .hwOnhook ∧ decode 0x90FE1234 = .ok (.hostAlloc 2) := ⟨rfl, rfl⟩

/-- R74: a word is stored least significant byte first. -/
theorem test_decode_bytes : decodeBytes [0x37, 0x03, 0x01, 0x84, 0xAA] = .ok (.hostMemwr 1 3 0x37, [0xAA]) := rfl

theorem test_encode_words :
    encode (.hostSwap 2 1) = 0x92210000 ∧ encode (.hostMasterset 5 true false 5) = 0x96050205 ∧
    encode (.hostCall true 4 2) = 0xA0010402 ∧ encode (.timeTick true true) = 0xC1000003 := by decide

/-- V13 to V20. -/
theorem test_action_words :
    (lrWord 5 1 (.setHook .ring)).toNat = 0x1030510000000002 ∧
    (lrWord 6 hAny (.setConf (descMonitor 5))).toNat = 0x10506F0000000805 ∧
    (lrWord 5 0 (.writeFrame 320 80)).toNat = 0x10B0500000500140 ∧
    (indWord 5 2 (.hangup 4 .fatal)).toNat = 0x2010520000000104 ∧
    (indWord 5 hAny (.error .conflict)).toNat = 0x20505F0000000330 ∧
    (indWord 5 hAny (.regVal 8000 4)).toNat = 0x20905F0000041F40 ∧
    (indWord 5 0 (.cidResult true 0xFF)).toNat = 0x203050000000FF01 := by decide

/-- The step decodes and runs a delivered word, and an undefined one raises (V178). -/
theorem test_step_undefined :
    sent 0x0D000000 fresh = [0x20500F0000000221] ∧ (after 0x0D000000 fresh).err.errcnt = 1 := by decide

/-! ### Line events -/

/-- V39. -/
theorem test_none : sent 0x00000000 b5 = [] ∧ sent 0x40000000 b5 = [] := by decide
/-- V177. -/
theorem test_none_unconfigured :
    sent 0x00000000 fresh = [0x20500F0000000222] ∧ sent 0x40000000 fresh = [0x20500F0000000222] := by decide

/-- V22. -/
theorem test_onhook_setup :
    sent 0x01000000 seized =
      [0x2010500000000200, 0x10A0500000000000, 0x1030500000000000, 0x1040500000000000, 0x1070500000000000,
       0x1080500000000000] ∧
    (after 0x01000000 seized).line.st = .releasing := by decide
/-- V24. -/
theorem test_onhook_ringing : sent 0x01000000 ringIn = [0x20505F0000000220] := by decide
/-- V30. -/
theorem test_fake_onhook :
    sent 0x41000000 call7 =
      [0x2010500000000207, 0x1030500000000000, 0x1040500000000000, 0x1070500000000000, 0x1080500000000000] := by decide
/-- P1 step 13: the held call rings back. -/
theorem test_fake_onhook_held :
    let s := call78.updLine fun l => { l with st := .onHold }
    sent 0x41000000 s = [0x2010500000000207, 0x1020500000000000, 0x1030510000000002] ∧
    (after 0x41000000 s).banks.real.pend = 0x41 := by decide

/-- V21. -/
theorem test_offhook_idle :
    sent 0x02000000 b5 = [0x1090500000000004, 0x2020500000000000] ∧
    reg16 0x80 (after 0x02000000 b5) = 0x8521 ∧ reg16 0x90 (after 0x02000000 b5) = 0x0009 := by decide
/-- V29. -/
theorem test_offhook_twice : sent 0x02000000 call7 = [0x20505F0000000220] := by decide
/-- P2 step 8: the answer needs no command. -/
theorem test_fake_offhook_answers :
    sent 0x42000000 ringOut = [] ∧ (after 0x42000000 ringOut).line.st = .active ∧
    (after 0x42000000 ringOut).line.ringt = 0 := by decide
/-- V156: an alert is stopped, and the call is set up in the same step. -/
theorem test_fake_offhook_alert :
    sent 0x42000000 { b5 with mwi := { b5.mwi with st := .alertWait } } =
      [0x1030500000000003, 0x20605F0000000000, 0x1090500000000004, 0x2020500000000000] := by decide

/-- V28. -/
theorem test_ringoffhook_answers :
    sent 0x03000000 ringOut = [] ∧ (after 0x03000000 ringOut).banks.real.pend = 0x08 := by decide
/-- V26. -/
theorem test_fake_ringoffhook_burst :
    let s := { ringIn with rx := { ringIn.rx with ringcnt := 1, resultSent := true } }
    sent 0x43000000 s = [] ∧ (after 0x43000000 s).rx.ringcnt = 2 := by decide

/-- V52. -/
theorem test_winkflash_refused :
    sent 0x04000000 (refusing call7) = [0x1010510000000000, 0x20505F0000000113] := by decide
/-- V57: more than 2000 ms after the last flash an incomplete three-way is undone. -/
theorem test_winkflash_undo :
    sent 0x04000000 (building.updLine fun l => { l with flashT := 5000, flashV := true, now := 7000 }) =
      [0x2010500000000800, 0x10A0510000000000, 0x1020510000000000] := by decide
/-- P2 step 13: the merge at exactly 2000 ms. -/
theorem test_fake_winkflash_merge :
    let s := (withCall .r 1 0 (withCall .tw 0 3 call7)).updLine fun l => { l with flashT := 5000, flashV := true, now := 7000 }
    sent 0x44000000 s = [0x1050500000000705, 0x1050510000000705] ∧
    reg16 0x96 (after 0x44000000 s) = 0x8005 := by decide
/-- P1 step 10. -/
theorem test_fake_winkflash_swap :
    sent 0x44000000 call78 = [] ∧ reg16 0x90 (after 0x44000000 call78) = 0x20B ∧
    reg16 0x91 (after 0x44000000 call78) = 0x809 := by decide

/-- V25. -/
theorem test_ringbegin :
    sent 0x05000000 b5 = [0x2020500000000000, 0x203050000000FF00] ∧ (after 0x05000000 b5).line.ringt = 400 := by decide
/-- R150: not on an established call. -/
theorem test_ringbegin_busy : sent 0x05000000 call7 = [0x20505F0000000220] := by decide
/-- V157: a ring ends the alert pause. -/
theorem test_fake_ringbegin :
    sent 0x45000000 { b5 with mwi := { b5.mwi with st := .pause } } =
      [0x20605F0000000000, 0x2020500000000000, 0x203050000000FF00] := by decide

/-- V149. -/
theorem test_ringoff_alert :
    let s := { b5 with mwi := { b5.mwi with st := .alertWait }, line := { b5.line with now := 3020 } }
    sent 0x06000000 s = [0x1030500000000003] ∧ (after 0x06000000 s).mwi.deadline = 3520 := by decide
/-- P2 step 5. -/
theorem test_fake_ringoff_spill :
    let s := { ringOut with tx := { SpillRegs.reset with kind := .cid, len := 4067 } }
    sent 0x46000000 s = [] ∧ (after 0x46000000 s).tx.go = true ∧ (after 0x46000000 s).conf.confSusp = true := by decide

/-- V124. -/
theorem test_dialcomplete :
    let s := dialOut.updLine fun l => { l with dialing := true }
    sent 0x07000000 s = [] ∧ (after 0x07000000 s).banks.real.pend = 0x01 := by decide
/-- V125. -/
theorem test_fake_dialcomplete : sent 0x47000000 dialOut = [0x20505F0000000220] := by decide

/-- V122: 620 ms after the answer is above 600 ms. -/
theorem test_polarity_hangup :
    sent 0x08000000 ((withCfg 1 0x20 call7).updLine fun l => { l with now := 10620, answerT := 10000 }) =
      [0x2010500000000607, 0x1030500000000000, 0x1040500000000000, 0x1070500000000000, 0x1080500000000000] := by decide
/-- V121: exactly 600 ms is not. -/
theorem test_fake_polarity_guard :
    let s := (withCfg 1 0x20 call7).updLine fun l => { l with now := 10600, answerT := 10000 }
    sent 0x48000000 s = [] ∧ (after 0x48000000 s).line.pol = true := by decide

/-- V32. -/
theorem test_alarm :
    sent 0x09000000 seized =
      [0x2010500000000500, 0x10A0500000000000, 0x1030500000000000, 0x1040500000000000, 0x1070500000000000,
       0x1080500000000000] ∧ (after 0x09000000 seized).line.inalarm = true := by decide
/-- V33: line events are masked in alarm. -/
theorem test_fake_alarm :
    sent 0x49000000 b5 = [] ∧ sent 0x42000000 (after 0x49000000 b5) = [0x20505F0000000220] := by decide
/-- V34. -/
theorem test_noalarm :
    (after 0x0A000000 alarmed).line.inalarm = false ∧ (after 0x4A000000 alarmed).line.inalarm = false ∧
    sent 0x0A000000 alarmed = [] := by decide

/-- V35, V36. -/
theorem test_pulsedigit :
    sent 0x0B000035 seized = [0x2040500000000135] ∧ sent 0x4B00002A seized = [0x20505F0000000225] := by decide
/-- P1 step 3, V36. -/
theorem test_dtmfdigit :
    sent 0x0C000035 seized = [0x2040500000000035] ∧ sent 0x0C000045 seized = [0x20505F0000000225] := by decide
/-- V37, V38. -/
theorem test_fake_dtmfdigit :
    sent 0x4C000035 b5 = [0x20505F0000000220] ∧
    sent 0x4C000044 (call7.updLine fun l => { l with postwin := 3 }) = [] := by decide
/-- V114: the start marker, then a digit, of a DTMF Caller-ID. -/
theorem test_dtmfdigit_cid :
    let s := { withCfg 1 0x0800 (withCfg 2 6 b5) with rx := { b5.rx with st := .decoding, dtmfOpen := true } }
    sent 0x0C000035 s = [] ∧ (after 0x0C000035 s).mem = [(327680, 0x35)] := by decide

/-! ### Configuration and access -/

/-- V172 to V175, V182. -/
theorem test_cfgwr :
    sent 0x8100000B fresh = [0x20500F0000000225] ∧ sent 0x81400000 fresh = [0x20500F0000000224] ∧
    sent 0x811D0000 fresh = [0x20500F0000000225] ∧ sent 0x81040064 b5 = [0x20505F0000000223] ∧
    cfgRead (after 0x8101FFFF fresh).cfg 1 = 0x1FFF := by decide
/-- V181 and the boot of B5. -/
theorem test_cfgdone :
    sent 0x82000000 (withCfg 15 5 fresh) = [0x1010500000000000, 0x1040500000000000, 0x1070500000000000, 0x1080500000000000] ∧
    sent 0x82000000 (refusing (withCfg 15 5 fresh)) = [0x1010500000000000, 0x20505F0000000113] := by decide
/-- V205. -/
theorem test_reset : sent 0x83000000 call7 = [] ∧ reg16 0x80 (after 0x83000000 call7) = 0x00C0 := by decide
/-- V180, V179. -/
theorem test_memwr :
    rd .cidmsg 63 (after 0x84003F5A fresh) = 0x5A ∧ sent 0x84004000 fresh = [0x20500F0000000224] ∧
    sent 0x84020000 fresh = [0x20500F0000000224] := by decide
/-- V183, V176. -/
theorem test_rdreg :
    sent 0x857F0000 b5 = [0x20905F00007F0000] ∧ sent 0x858D0000 b5 = [0x20905F00008D0032] ∧
    sent 0x85800000 b5 = [0x20905F00008080C0] ∧ sent 0x85040000 fresh = [0x20900F0000041F40] := by decide
/-- V180, V179. -/
theorem test_memrd :
    sent 0x8600003F { fresh with mem := [(63, 0x5A)] } = [0x20A00F000000005A] ∧
    sent 0x86070000 fresh = [0x20500F0000000224] := by decide

/-! ### Multiplexer and conference -/

/-- V40, V43. -/
theorem test_alloc :
    sent 0x90020000 b5 = [0x1010510000000000] ∧ reg16 0x92 (after 0x90020000 b5) = 3 ∧
    sent 0x90000000 b5 = [0x20505F0000000330] ∧ sent 0x90030000 b5 = [0x20505F0000000225] := by decide
/-- V42, V44. -/
theorem test_alloc_handle :
    sent 0x90010000 call73 = [0x1010520000000000] ∧
    sent 0x90020000 (refusing b5) = [0x1010510000000000, 0x20505F0000000113] := by decide
/-- V45, V46. -/
theorem test_release :
    sent 0x91020000 call73 = [0x1020510000000000] ∧ reg16 0x92 (after 0x91020000 call73) = 0 ∧
    sent 0x91000000 b5 = [0x20505F0000000226] ∧ sent 0x91010000 b5 = [0x20505F0000000220] := by decide
/-- V47: `PEND` stays with the leg. -/
theorem test_swap :
    let s := (call7.updBank .r fun b => { b with pend := 9 }).updBank .tw fun b => { b with alloc := true, res := 1 }
    sent 0x92020000 s = [] ∧ reg16 0x90 (after 0x92020000 s) = 0x0243 ∧ reg16 0x92 (after 0x92020000 s) = 9 := by decide
/-- V49. -/
theorem test_swap_errors :
    sent 0x92000000 b5 = [] ∧ sent 0x92010000 b5 = [0x20505F0000000220] ∧
    sent 0x92030000 b5 = [0x20505F0000000225] := by decide
/-- V61, V62. -/
theorem test_reconcile :
    sent 0x93000000 (after 0x94060000 b5) = [] ∧
    sent 0x93000000 (b5.updConf fun c => { c with inconf := true }) = [0x1050500000000705] := by decide
/-- V60, V63. -/
theorem test_slaveadd :
    sent 0x94060000 b5 = [0x1050500000000806, 0x10506F0000000805] ∧
    sent 0x94060001 b5 = [0x1050500000000705, 0x10506F0000000705] := by decide
/-- V66, V67. -/
theorem test_slavedel :
    sent 0x95060000 (after 0x94060000 b5) = [0x10506F0000000000, 0x1050500000000000] ∧
    sent 0x95090000 b5 = [0x20505F0000000220] := by decide
/-- V70, V71, V74. -/
theorem test_masterset :
    sent 0x96050100 (withCfg 15 6 b5) = [0x1050600000000805] ∧
    sent 0x96050205 (withCfg 15 6 b5) = [0x1050600000000705] ∧
    sent 0x96060000 (withCfg 15 6 b5) = [0x20506F0000000225] := by decide
/-- V72. -/
theorem test_masterclr : sent 0x97000000 (after 0x96050205 (withCfg 15 6 b5)) = [0x1050600000000000] := by decide
/-- V69. -/
theorem test_inconf :
    sent 0x98000001 b5 = [0x1050500000000705] ∧ sent 0x98000000 (after 0x98000001 b5) = [0x1050500000000000] := by decide

/-! ### Call control -/

/-- V123, V127: the digits are sent, or wait for the wink of a trunk. -/
theorem test_call_dial :
    sent 0xA0010402 (withCfg 0 5 b5) = [0x1030500000000001, 0x10C0500000000004] ∧
    reg16 0x86 (after 0xA0010402 (withCfg 0 5 b5)) = 0x204 ∧ sent 0xA0010402 (withCfg 0 6 b5) = [0x1030500000000001] ∧
    reg16 0x86 (after 0xA0010402 (withCfg 0 6 b5)) = 0x104 := by decide
/-- V186, V187. -/
theorem test_call_ring :
    sent 0xA0000009 call7 = [0x20505F0000000227, 0x20B05F0000000009] ∧
    sent 0xA0000007 (refusing b5) = [0x1030500000000002, 0x20505F0000000110, 0x20B05F0000000007] := by decide
/-- V197, V198. -/
theorem test_up :
    sent 0xA1000000 seized = [0x10A0500000000000] ∧ (after 0xA1000000 seized).line.st = .active ∧
    sent 0xA1000000 b5 = [0x20505F0000000220] ∧ sent 0xA1030000 b5 = [0x20505F0000000225] := by decide
/-- V199. -/
theorem test_hangup_real :
    sent 0xA2000000 ringOut =
      [0x1030500000000003, 0x1030500000000000, 0x1040500000000000, 0x1070500000000000, 0x1080500000000000] := by decide
/-- V202, V200. -/
theorem test_hangup_other :
    sent 0xA2020000 building = [0x1020500000000000, 0x10A0510000000000, 0x1090510000000004] ∧
    sent 0xA2010000 call78 = [0x1020510000000000] := by decide
/-- V188, V190. -/
theorem test_cwoffer :
    sent 0xA3000008 b5 = [0x20505F0000000227, 0x20705F0000000008] ∧
    sent 0xA3000008 (refusing call7) = [0x1010510000000000, 0x20505F0000000113, 0x20705F0000000008] := by decide
/-- P2 step 8, V184, V185. -/
theorem test_poll :
    sent 0xA4000000 (call7.updBank .r fun b => { b with pend := 9 }) = [0x2080500000000009] ∧
    sent 0xA4030000 b5 = [0x20505F0000000225] ∧ sent 0xA4010000 b5 = [0x2080510000000000] := by decide
/-- V191, V193, V194. -/
theorem test_setlinear :
    sent 0xA5000001 call7 = [0x1060500000000001] ∧ sent 0xA5000000 sending = [] ∧
    (after 0xA5000000 sending).tx.linSaved = false ∧ sent 0xA5010001 b5 = [0x20505F0000000220] := by decide
/-- V161, V162. -/
theorem test_mwinotify :
    reg16 0xAD (after 0xA6000001 b5) = 0x10 ∧
    reg16 0xAD (after 0xA6000001 (withCfg 1 0x100 seized)) = 0x18 := by decide
/-- R342, R343: with ring-pulse alert the engine starts in SendAlertSignal. -/
theorem test_mwinotify_alert : (after 0xA6000001 (withCfg 1 0x300 b5)).mwi.st = .sendAlert := by decide
/-- V196, V195. -/
theorem test_indicate :
    sent 0xA7020000 seized = [0x10A0500000000000, 0x1090500000000002] ∧ sent 0xA7000000 seized = [0x10A0500000000000] ∧
    sent 0xA7010000 b5 = [0x20505F0000000220] := by decide

/-! ### Time -/

/-- V164, V163; the first frame of a spill (P2 step 6). -/
theorem test_tick :
    reg16 0x8D (after 0xC1000000 b5) = 49 ∧ (after 0xC1000000 b5).line.now = 20 ∧
    (after 0xC1000000 fresh).line.now = 0 ∧ sent 0xC1000001 sending = [0x10B0500000A00000] := by decide
set_option maxRecDepth 8000 in
/-- V27: the ring that has lasted its time. -/
theorem test_tick_ring :
    sent 0xC1000001 (ringIn.updLine fun l => { l with ringt := 1 }) =
      [0x2010500000000300, 0x1030500000000000, 0x1040500000000000, 0x1070500000000000, 0x1080500000000000] := by decide
/-- V171, V170. -/
theorem test_lrfatal :
    sent 0xC2000000 b5 = [0x20505F0000000440] ∧ reg16 0x8E (after 0xC2000000 b5) = 0x8040 ∧
    sent 0xC2000000 fresh = [] := by decide

/-! ### Witnesses: for each statement with hypotheses, and each of its clauses, a state and operands that meet them -/

/-- The filters of R130 let a line event through. -/
theorem ready {s : State} (h : s.line.configured = true ∧ s.line.inalarm = false ∧ s.line.st ≠ .releasing) :
    LineReady s := ⟨h.1, h.2.1, h.2.2⟩

/-- 64 answers, all `OK`. -/
theorem accepting {s : State} (h : s.env.answers = List.replicate 64 .ok) : Accepting s :=
  ⟨by rw [h]; decide, fun a ha => by rw [h] at ha; exact List.eq_of_mem_replicate ha⟩

/-- The parameters of the small states are the default ones, and lawful. -/
theorem lawful {s : State} (h : s.par = {}) : s.par.ok := by rw [h]; decide

/-- The two invariants of the calls hold of "call 7" with a second call on CallWaiting. -/
theorem bank_call78 : BankInv call78 :=
  ⟨rfl, by intro x y; cases x <;> cases y <;> decide, by intro x; cases x <;> decide, by intro x; cases x <;> decide,
    .inr rfl, by intro x; cases x <;> decide⟩

/-- An Idle line without a call. -/
theorem quiet_b5 : QuietInv b5 :=
  ⟨fun _ => ⟨by intro x; cases x <;> rfl, rfl, rfl, rfl, rfl, rfl, rfl, rfl, rfl, rfl, rfl⟩⟩

theorem quiet_call78 : QuietInv call78 := ⟨fun h => absurd h (by decide)⟩

theorem call_call78 : CallInv call78 := ⟨by decide, nofun⟩

/-- A word delivered changes none of the registers the invariants are about. -/
theorem bank_deliver {s : State} {w : Word} (h : BankInv s) : BankInv (deliver w s) := ⟨h.1, h.2, h.3, h.4, h.5, h.6⟩
theorem quiet_deliver {s : State} {w : Word} (h : QuietInv s) : QuietInv (deliver w s) := ⟨h.1⟩
theorem call_deliver {s : State} {w : Word} (h : CallInv s) : CallInv (deliver w s) := ⟨h.1, h.2⟩
theorem conf_deliver {s : State} {w : Word} (h : ConfInv s) : ConfInv (deliver w s) :=
  ⟨h.1, h.2, h.3, h.4, h.5, h.6, h.7, h.8, h.9, h.10, h.11, h.12, h.13⟩

theorem bank_b5 : BankInv b5 :=
  ⟨rfl, by intro x y; cases x <;> cases y <;> decide, by intro x; cases x <;> decide, by intro x; cases x <;> decide,
    .inl rfl, by intro x; cases x <;> decide⟩

/-- `b5` with slaves 6, 7, 8 and so on in use, without the passes. -/
def withSlaves (n : BitVec 3) : State :=
  { b5 with conf := { b5.conf with
      nslaves := n
      slaves := #v[{ Slave.empty with id := 6 }, { Slave.empty with id := 7 }, { Slave.empty with id := 8 },
        { Slave.empty with id := 9 }] } }

/-- `b5` with the one slave 6 listed. -/
def oneSlave : State :=
  b5.updConf fun c => { c with nslaves := 1, slaves := c.slaves.set 0 { Slave.empty with id := 6 } }

/-- The conference invariant with one slave, and with a master. -/
theorem conf_oneSlave : ConfInv oneSlave where
  par := by decide
  few := by decide
  distinct := by intro i j hi hj; simp [oneSlave, State.updConf] at hj; omega
  notSelf := by
    intro i hi
    obtain rfl : i = 0 := by simp [oneSlave, State.updConf] at hi; omega
    decide
  unused := by
    intro i hi
    match i with
    | 0 => exact absurd hi (by decide)
    | 1 => rfl
    | 2 => rfl
    | 3 => rfl
    | n + 4 => simp [slaveAt]
  master := nofun
  noMaster := fun _ => ⟨rfl, rfl, rfl, rfl⟩
  own := rfl
  setup := nofun
  saved := fun _ => rfl
  legs := by intro x; cases x <;> exact .inl rfl
  slaves := by
    intro i
    match i with
    | 0 => exact .inl rfl
    | 1 => exact .inl rfl
    | 2 => exact .inl rfl
    | 3 => exact .inl rfl
    | n + 4 => left; simp [slaveAt]; rfl
  suspended := .inl rfl

theorem witness_UndefinedOpcodes :
    (∃ (s : State) (w : Word) (rest : List Word), s.env.events = w :: rest ∧ undefinedOpcode (slice w 24 8) = true) ∧
    (undefinedOpcode 0x0D && undefinedOpcode 0x3F && undefinedOpcode 0x4D && undefinedOpcode 0x7F && undefinedOpcode 0x80
      && undefinedOpcode 0x87 && undefinedOpcode 0x8F && undefinedOpcode 0x99 && undefinedOpcode 0x9F
      && undefinedOpcode 0xA8 && undefinedOpcode 0xBF && undefinedOpcode 0xC0 && undefinedOpcode 0xC3
      && undefinedOpcode 0xFF && !undefinedOpcode 0x0C && !undefinedOpcode 0x4C && !undefinedOpcode 0x86
      && !undefinedOpcode 0x98 && !undefinedOpcode 0xA7 && !undefinedOpcode 0xC2) = true :=
  ⟨⟨deliver 0x0D000000 b5, 0x0D000000, [], rfl, by decide⟩, by decide⟩

theorem witness_StepRunsWord :
    (∃ (s : State) (i : Instr) (w : Word) (rest : List Word), s.env.events = w :: rest ∧ decode w = .ok i) ∧
    (∃ s : State, s.env.events = []) :=
  ⟨⟨deliver 0x02000000 b5, .hwOffhook, 0x02000000, [], rfl, rfl⟩, b5, rfl⟩

theorem witness_OneWordPerStep :
    ∃ (s t : State) (w : Word) (rest : List Word), s.env.events = w :: rest ∧ step s = .next t :=
  ⟨deliver 0x02000000 b5, _, 0x02000000, [], rfl, rfl⟩

theorem witness_BankInvKept :
    (∃ s t : State, BankInv s ∧ step s = .next t) ∧
    (∃ s t : State, ConfInv s ∧ step s = .next t ∧ t.conf.nslaves = 2 ∧ s.conf.nslaves = 1) :=
  ⟨⟨deliver 0x04000000 call78, _, bank_deliver bank_call78,
      rfl⟩,
    deliver 0x94070000 oneSlave, _, conf_deliver conf_oneSlave, rfl, by decide, rfl⟩

theorem witness_MemInvKept : ∃ s t : State, MemInv s ∧ step s = .next t :=
  ⟨deliver 0x84003F5A { b5 with mem := [(5, 7)] }, _,
    ⟨by decide, by decide, fun c hc => ⟨.cidmsg, 5, by decide, by simp [deliver, State.updEnv] at hc; rw [hc]; rfl⟩⟩, rfl⟩

theorem witness_SpillInvKept : ∃ s t : State, SpillInv s ∧ step s = .next t :=
  ⟨deliver 0xC1000001 sending, _, ⟨by decide, by decide, by decide, by decide, by decide, by decide, by decide⟩, rfl⟩

theorem witness_QuietInvKept :
    (∃ s t : State, BankInv s ∧ QuietInv s ∧ step s = .next t) ∧
    (∃ s t : State, BankInv s ∧ QuietInv s ∧ CallInv s ∧ step s = .next t ∧ s.line.st = .active ∧
      t.line.st = .offered) :=
  ⟨⟨deliver 0x02000000 b5, _, bank_deliver bank_b5, quiet_deliver quiet_b5, rfl⟩,
    deliver 0x01000000 call78, _, bank_deliver bank_call78,
    quiet_deliver quiet_call78, call_deliver call_call78, rfl, rfl, by decide⟩

theorem witness_ToneInvKept :
    (∃ s t : State, ToneInv s ∧ step s = .next t) ∧
    (∃ (s t : State) (w : Word) (rest : List Word), BankInv s ∧ QuietInv s ∧ CallInv s ∧ ToneInv s ∧
      s.env.events = w :: rest ∧ step s = .next t ∧ s.line.st = .idle ∧ t.line.st = .offered) ∧
    (∃ (s t : State) (w : Word) (rest : List Word), BankInv s ∧ QuietInv s ∧ CallInv s ∧ ToneInv s ∧
      s.env.events = w :: rest ∧ step s = .next t ∧ s.line.st = .active ∧ t.line.st = .onHold) :=
  ⟨⟨deliver 0x01000000 seized, _, fun _ => .inl rfl, rfl⟩,
    ⟨deliver 0x02000000 b5, _, 0x02000000, [], bank_deliver bank_b5,
      quiet_deliver quiet_b5, ⟨by decide, nofun⟩, nofun, rfl, rfl, rfl, by decide⟩,
    deliver 0x04000000 call78, _, 0x04000000, [],
    bank_deliver bank_call78,
    quiet_deliver quiet_call78, call_deliver call_call78, nofun, rfl, rfl, rfl, by decide⟩

theorem witness_MwiInvKept : ∃ s t : State, QuietInv s ∧ MwiInv s ∧ step s = .next t :=
  ⟨deliver 0x02000000 mwiSpilling, _,
    ⟨fun _ => ⟨by intro x; cases x <;> rfl, rfl, rfl, rfl, rfl, rfl, rfl, rfl, rfl, rfl, rfl⟩⟩,
    ⟨fun _ => rfl, fun _ => rfl⟩, rfl⟩

theorem witness_CidInvKept : ∃ s t : State, CidInv s ∧ step s = .next t :=
  ⟨deliver 0x05000000 { ringIn with rx := { ringIn.rx with st := .done, cidValid := true, rxlen := 32768, dtmflen := 16, ngap := 2 } },
    _, ⟨by decide, by decide, by decide, by decide, by decide⟩, rfl⟩

theorem witness_CfgInvKept : ∃ s t : State, CfgInv s ∧ step s = .next t :=
  ⟨deliver 0x8100000A fresh, _, ⟨by decide, by decide, by decide, by decide⟩, rfl⟩

theorem witness_LoopCommandsNameReal :
    ∃ s t : State, step s = .next t ∧ (newWords s t).any isLoopCommand = true :=
  ⟨deliver 0x41000000 call7, _, rfl, by decide⟩

theorem witness_ErrorsLogged :
    (∃ (s t : State) (w : Word) (rest : List Word) (e : ActionWord), s.env.events = w :: rest ∧
      decode w ≠ .ok .hostReset ∧ step s = .next t ∧ ((newWords s t).filter isErrInd).getLast? = some e) ∧
    (∃ (s t : State) (w : Word) (rest : List Word), s.env.events = w :: rest ∧
      decode w ≠ .ok .hostReset ∧ step s = .next t ∧ ((newWords s t).filter isErrInd).getLast? = none) :=
  ⟨⟨deliver 0x02000000 { call7 with err := { call7.err with errcnt := 0xFFFF } }, _, 0x02000000, [], _, rfl, nofun, rfl, rfl⟩,
    deliver 0x02000000 b5, _, 0x02000000, [], rfl, nofun, rfl, rfl⟩

theorem witness_ConfigLocked :
    (∃ (s t : State) (w : Word) (rest : List Word), s.env.events = w :: rest ∧ step s = .next t ∧
      s.line.configured = true ∧ decode w ≠ .ok .hostReset) ∧
    (∃ (s t : State) (w : Word) (rest : List Word), s.env.events = w :: rest ∧ step s = .next t ∧
      s.line.configured = false ∧ t.line.configured = true) :=
  ⟨⟨deliver 0x8100000A b5, _, 0x8100000A, [], rfl, rfl, rfl, nofun⟩, deliver 0x82000000 fresh, _, 0x82000000, [], rfl, rfl, rfl, rfl⟩

set_option maxRecDepth 8000 in
theorem witness_ClockMoves :
    (∃ (s t : State) (w : Word) (rest : List Word), s.env.events = w :: rest ∧ step s = .next t ∧
      decode w = .ok (.timeTick false true) ∧ s.line.configured = true) ∧
    (∃ (s t : State) (w : Word) (rest : List Word), s.env.events = w :: rest ∧ step s = .next t ∧
      decode w = .ok (.timeTick false true) ∧ (s.bank .cw).owned = true ∧ s.line.st = .onHold ∧
      (t.bank .cw).owned = true) ∧
    (∃ (s t : State) (w : Word) (rest : List Word), s.env.events = w :: rest ∧ step s = .next t ∧
      decode w = .ok (.timeTick false true) ∧ (s.bank .r).owned = true ∧ s.line.st = .offered ∧
      t.line.st = .releasing) :=
  ⟨⟨deliver 0xC1000001 b5, _, 0xC1000001, [], rfl, rfl, rfl, rfl⟩,
    ⟨deliver 0xC1000001 (call78.updLine fun l => { l with st := .onHold }), _, 0xC1000001, [], rfl, rfl, rfl, rfl, rfl,
      by decide⟩,
    deliver 0xC1000001 (ringIn.updLine fun l => { l with ringt := 1 }), _, 0xC1000001, [], rfl, rfl, rfl, rfl, rfl,
    by decide⟩

theorem witness_HostBuffersAreTheHosts :
    (∃ (s t : State) (w : Word) (rest : List Word) (sp : Space) (a : Nat), s.env.events = w :: rest ∧ step s = .next t ∧
      (sp = .cidmsg ∨ sp = .dialbuf) ∧ a < sp.size s.par ∧ a < 65536 ∧ rd sp a t ≠ rd sp a s) ∧
    (∃ (s t : State) (w : Word) (rest : List Word) (sp : Space) (a : Nat), s.env.events = w :: rest ∧ step s = .next t ∧
      (sp = .cidmsg ∨ sp = .dialbuf) ∧ a < sp.size s.par ∧ a < 65536 ∧ rd sp a t ≠ rd sp a s ∧ decode w = .ok .hostReset) :=
  ⟨⟨deliver 0x84013F5A b5, _, 0x84013F5A, [], .dialbuf, 63, rfl, rfl, .inr rfl, by decide, by decide, by decide⟩,
    deliver 0x83000000 { b5 with mem := [(63, 7)] }, _, 0x83000000, [], .cidmsg, 63, rfl, rfl, .inl rfl, by decide,
    by decide, by decide, rfl⟩

theorem witness_Admission :
    (∃ (i : Instr) (s : State), s.line.configured = false ∧ isTimeWord i = true) ∧
    (∃ (i : Instr) (s : State), s.line.configured = false ∧ isTimeWord i = false ∧ isSetupWord i = false) ∧
    (∃ (i : Instr) (s : State), s.line.configured = true ∧ s.line.inalarm = true ∧ isMaskableEvent i = true) ∧
    (∃ (i : Instr) (s : State), s.line.configured = true ∧ s.line.inalarm = true ∧ isOnhook i = true) ∧
    (∃ (i : Instr) (s : State), s.line.configured = true ∧ s.line.inalarm = false ∧ s.line.st = .releasing ∧
      isMaskableEvent i = true) ∧
    (∃ (i : Instr) (s : State), s.line.configured = true ∧ (i = .hwNone ∨ i = .fakeNone)) :=
  ⟨⟨.timeTick true true, fresh, rfl, rfl⟩, ⟨.hwNone, fresh, rfl, rfl, rfl⟩, ⟨.hwOffhook, alarmed, rfl, rfl, rfl⟩,
    ⟨.fakeOnhook, alarmed, rfl, rfl, rfl⟩, ⟨.fakeDtmfdigit 0x45, releasing, rfl, rfl, rfl, rfl⟩, .fakeNone, b5, rfl, .inr rfl⟩

theorem witness_OnhookWord :
    (∃ (s : State) (i : Instr), (i = .hwOnhook ∨ i = .fakeOnhook) ∧ s.line.configured = true ∧ s.line.inalarm = false ∧
      s.line.st.isCall = true ∧ s.banks.cw.owned = false ∧ Accepting s) ∧
    (∃ (s : State) (i : Instr), (i = .hwOnhook ∨ i = .fakeOnhook) ∧ s.line.configured = true ∧ s.line.inalarm = false ∧
      s.line.st = .offered ∧ s.line.calldir = .inbound ∧ s.line.hook = true ∧ Accepting s) ∧
    (∃ (s : State) (i : Instr), (i = .hwOnhook ∨ i = .fakeOnhook) ∧ s.line.configured = true ∧ s.line.inalarm = false ∧
      s.line.st = .offered ∧ s.line.calldir = .outDial) ∧
    (∃ (s : State) (i : Instr), (i = .hwOnhook ∨ i = .fakeOnhook) ∧ s.line.configured = true ∧ s.line.inalarm = false ∧
      s.line.st = .releasing) ∧
    (∃ (s : State) (i : Instr), (i = .hwOnhook ∨ i = .fakeOnhook) ∧ s.line.configured = true ∧ s.line.inalarm = false ∧
      s.line.st = .offered ∧ s.line.calldir = .outRing) ∧
    (∃ (s : State) (i : Instr), (i = .hwOnhook ∨ i = .fakeOnhook) ∧ s.line.configured = true ∧ s.line.inalarm = false ∧
      s.line.st = .offered ∧ s.line.calldir = .inbound ∧ s.line.hook = false) :=
  ⟨⟨building, .fakeOnhook, .inr rfl, rfl, rfl, rfl, rfl, accepting rfl⟩,
    ⟨seized, .hwOnhook, .inl rfl, rfl, rfl, rfl, rfl, rfl, accepting rfl⟩, ⟨dialOut, .hwOnhook, .inl rfl, rfl, rfl, rfl, rfl⟩,
    ⟨releasing, .hwOnhook, .inl rfl, rfl, rfl, rfl⟩, ⟨ringOut, .hwOnhook, .inl rfl, rfl, rfl, rfl, rfl⟩,
    ringIn, .hwOnhook, .inl rfl, rfl, rfl, rfl, rfl, rfl⟩

theorem witness_OnhookRingsBack :
    ∃ (s : State) (i : Instr), (i = .hwOnhook ∨ i = .fakeOnhook) ∧ LineReady s ∧ s.line.st.isCall = true ∧
      s.banks.cw.owned = true ∧ Accepting s :=
  ⟨call78, .fakeOnhook, .inr rfl, ready (by decide), rfl, rfl, accepting rfl⟩

theorem witness_OffhookSeizes :
    ∃ (s : State) (i : Instr), (i = .hwOffhook ∨ i = .fakeOffhook) ∧ LineReady s ∧ s.line.st = .idle ∧
      s.mwi.st.isActive = false ∧ Accepting s ∧ s.line.tone = .none :=
  ⟨b5, .fakeOffhook, .inr rfl, ready (by decide), rfl, rfl, accepting rfl, rfl⟩

theorem witness_OffhookAnswers :
    (∃ (s : State) (i : Instr), (i = .hwOffhook ∨ i = .fakeOffhook ∨ i = .hwRingoffhook ∨ i = .fakeRingoffhook) ∧
      LineReady s ∧ s.line.st = .offered ∧ s.mwi.st.isActive = false ∧ s.line.calldir = .outRing ∧ Accepting s) ∧
    (∃ (s : State) (i : Instr), (i = .hwOffhook ∨ i = .fakeOffhook ∨ i = .hwRingoffhook ∨ i = .fakeRingoffhook) ∧
      LineReady s ∧ s.line.st = .offered ∧ s.mwi.st.isActive = false ∧ s.line.calldir = .outDial ∧
      familyOf s.cfg = .trunk ∧ Accepting s) ∧
    (∃ (s : State) (i : Instr), i = .hwOffhook ∧ LineReady s ∧ s.mwi.st.isActive = false ∧ s.line.st.isCall = true) ∧
    (∃ (s : State) (i : Instr), i = .fakeRingoffhook ∧ LineReady s ∧ s.mwi.st.isActive = false ∧ s.line.st = .offered ∧
      s.line.calldir = .none) ∧
    (∃ (s : State) (i : Instr), i = .hwRingoffhook ∧ LineReady s ∧ s.mwi.st.isActive = false ∧ s.line.st = .offered ∧
      s.line.calldir = .inbound ∧ s.line.hook = true) ∧
    (∃ (s : State) (i : Instr), i = .hwOffhook ∧ LineReady s ∧ s.mwi.st.isActive = false ∧ s.line.st = .offered ∧
      s.line.calldir = .outDial ∧ familyOf s.cfg ≠ .trunk) ∧
    (∃ (s : State) (i : Instr), i = .fakeOffhook ∧ isOffhook i = true ∧ LineReady s ∧ s.mwi.st.isActive = false ∧
      s.line.st = .offered ∧ s.line.calldir = .inbound ∧ s.line.hook = false) :=
  ⟨⟨ringOut, .hwRingoffhook, .inr (.inr (.inl rfl)), ready (by decide), rfl, rfl, rfl, accepting rfl⟩,
    ⟨withCfg 0 9 dialOut, .hwOffhook, .inl rfl, ready (by decide), rfl, rfl, rfl, rfl, accepting rfl⟩,
    ⟨call7, .hwOffhook, rfl, ready (by decide), rfl, rfl⟩,
    ⟨b5.updLine fun l => { l with st := .offered }, .fakeRingoffhook, rfl, ready (by decide), rfl, rfl, rfl⟩,
    ⟨seized, .hwRingoffhook, rfl, ready (by decide), rfl, rfl, rfl, rfl⟩,
    ⟨dialOut, .hwOffhook, rfl, ready (by decide), rfl, rfl, rfl, by decide⟩,
    ringIn, .fakeOffhook, rfl, rfl, ready (by decide), rfl, rfl, rfl, rfl⟩

theorem witness_RingBursts :
    (∃ (s : State) (i : Instr), (i = .hwRingbegin ∨ i = .fakeRingbegin ∨ i = .hwRingoffhook ∨ i = .fakeRingoffhook) ∧
      LineReady s ∧ s.line.st = .idle ∧ s.mwi.st.isActive = false ∧ hasFeature s.cfg .cidRx = true ∧
      cidStartOf s.cfg = .ring ∧ hasFeature s.cfg .dring = false) ∧
    (∃ (s : State) (i : Instr), (i = .hwRingbegin ∨ i = .fakeRingbegin ∨ i = .hwRingoffhook ∨ i = .fakeRingoffhook) ∧
      LineReady s ∧ s.line.st = .idle ∧ s.mwi.st.isActive = false ∧ hasFeature s.cfg .cidRx = false ∧
      hasFeature s.cfg .dring = false ∧ s.rx.st = .off ∧ s.line.hook = false) ∧
    (∃ (s : State) (i : Instr), (i = .hwRingbegin ∨ i = .fakeRingbegin ∨ i = .hwRingoffhook ∨ i = .fakeRingoffhook) ∧
      LineReady s ∧ s.line.st = .offered ∧ s.line.calldir = .inbound ∧ s.line.hook = false ∧ s.mwi.st.isActive = false ∧
      s.rx.ringcnt = 0xFF) ∧
    (∃ (s : State) (i : Instr), i = .fakeRingbegin ∧ isRingbegin i = true ∧ LineReady s ∧ s.line.st = .active) ∧
    (∃ (s : State) (i : Instr), i = .hwRingbegin ∧ isRingbegin i = true ∧ LineReady s ∧ s.line.st = .offered ∧
      s.line.hook = true) :=
  ⟨⟨withCfg 1 0x0800 b5, .hwRingoffhook, .inr (.inr (.inl rfl)), ready (by decide), rfl, rfl, rfl, rfl, rfl⟩,
    ⟨b5, .fakeRingbegin, .inr (.inl rfl), ready (by decide), rfl, rfl, rfl, rfl, rfl, rfl⟩,
    ⟨{ ringIn with rx := { ringIn.rx with ringcnt := 0xFF } }, .hwRingbegin, .inl rfl, ready (by decide), rfl, rfl, rfl, rfl,
      rfl⟩, ⟨call7, .fakeRingbegin, rfl, rfl, ready (by decide), rfl⟩,
    seized, .hwRingbegin, rfl, rfl, ready (by decide), rfl, rfl⟩

theorem witness_FlashSwapsWaitingCall :
    ∃ (s : State) (i : Instr), (i = .hwWinkflash ∨ i = .fakeWinkflash) ∧ LineReady s ∧ familyOf s.cfg = .loop ∧
      s.line.st.isCall = true ∧ s.banks.real.owned = true ∧ s.banks.cw.owned = true ∧ Accepting s :=
  ⟨withCfg 0 5 call78, .hwWinkflash, .inl rfl, ready (by decide), rfl, rfl, rfl, rfl, accepting rfl⟩

theorem witness_FlashBuildsThreeWay :
    (∃ (s : State) (i : Instr), (i = .hwWinkflash ∨ i = .fakeWinkflash) ∧ LineReady s ∧ familyOf s.cfg = .loop ∧
      s.line.st = .active ∧ s.banks.real.owned = true ∧ s.banks.cw.owned = false ∧ s.banks.tw.owned = false ∧
      hasFeature s.cfg .threeWay = true ∧ s.banks.tw.alloc = false ∧ AcceptingNext s ∧ Accepting s) ∧
    (∃ (s : State) (i : Instr), (i = .hwWinkflash ∨ i = .fakeWinkflash) ∧ LineReady s ∧ familyOf s.cfg = .loop ∧
      s.line.st = .active ∧ s.banks.real.owned = true ∧ s.banks.cw.owned = false ∧ s.banks.tw.owned = false ∧
      hasFeature s.cfg .threeWay = true ∧ s.banks.tw.alloc = false ∧ Refusing s) ∧
    (∃ (s : State) (i : Instr), i = .hwWinkflash ∧ LineReady s ∧ familyOf s.cfg = .loop ∧ s.line.st = .idle) ∧
    (∃ (s : State) (i : Instr), i = .fakeWinkflash ∧ LineReady s ∧ familyOf s.cfg = .loop ∧ s.line.st = .offered ∧
      s.banks.real.owned = true) ∧
    (∃ (s : State) (i : Instr), i = .hwWinkflash ∧ LineReady s ∧ familyOf s.cfg = .loop ∧ s.line.st.isCall = true ∧
      s.banks.real.owned = false) ∧
    (∃ (s : State) (i : Instr), i = .hwWinkflash ∧ LineReady s ∧ familyOf s.cfg = .loop ∧ s.line.st = .active ∧
      s.banks.real.owned = true ∧ s.banks.cw.owned = false ∧ s.banks.tw.owned = false ∧
      hasFeature s.cfg .threeWay = false) ∧
    (∃ (s : State) (i : Instr), i = .hwWinkflash ∧ LineReady s ∧ familyOf s.cfg = .loop ∧ s.line.st = .onHold ∧
      s.banks.real.owned = true ∧ s.banks.cw.owned = false ∧ s.banks.tw.owned = false ∧
      hasFeature s.cfg .threeWay = true) ∧
    (∃ (s : State) (i : Instr), i = .fakeWinkflash ∧ LineReady s ∧ familyOf s.cfg = .loop ∧ s.line.st = .active ∧
      s.banks.real.owned = true ∧ s.banks.cw.owned = false ∧ s.banks.tw.owned = false ∧
      hasFeature s.cfg .threeWay = true ∧ s.banks.tw.alloc = true) :=
  ⟨⟨call7, .hwWinkflash, .inl rfl, ready (by decide), rfl, rfl, rfl, rfl, rfl, rfl, rfl, rfl, accepting rfl⟩,
    ⟨refusing call7, .fakeWinkflash, .inr rfl, ready (by decide), rfl, rfl, rfl, rfl, rfl, rfl, rfl, rfl⟩,
    ⟨b5, .hwWinkflash, rfl, ready (by decide), rfl, rfl⟩, ⟨seized, .fakeWinkflash, rfl, ready (by decide), rfl, rfl, rfl⟩,
    ⟨b5.updLine fun l => { l with st := .active }, .hwWinkflash, rfl, ready (by decide), rfl, rfl, rfl⟩,
    ⟨withCfg 1 1 call7, .hwWinkflash, rfl, ready (by decide), rfl, rfl, rfl, rfl, rfl, rfl⟩,
    ⟨call7.updLine fun l => { l with st := .onHold }, .hwWinkflash, rfl, ready (by decide), rfl, rfl, rfl, rfl, rfl, rfl⟩,
    call73.updBank .tw fun b => { b with owned := false }, .fakeWinkflash, rfl, ready (by decide), rfl, rfl, rfl, rfl, rfl,
    rfl, rfl⟩

theorem witness_FlashOnThreeWayLeg :
    (∃ (s : State) (i : Instr), (i = .hwWinkflash ∨ i = .fakeWinkflash) ∧ LineReady s ∧ familyOf s.cfg = .loop ∧
      s.line.st.isCall = true ∧ s.banks.real.owned = true ∧ s.banks.cw.owned = false ∧ s.banks.tw.owned = true ∧
      s.line.flashV = true ∧ (s.line.now - s.line.flashT).toNat = 1999 ∧ Accepting s) ∧
    (∃ (s : State) (i : Instr), (i = .hwWinkflash ∨ i = .fakeWinkflash) ∧ LineReady s ∧ familyOf s.cfg = .loop ∧
      s.line.st.isCall = true ∧ s.banks.real.owned = true ∧ s.banks.cw.owned = false ∧ s.banks.tw.owned = true ∧
      s.line.flashV = true ∧ (s.line.now - s.line.flashT).toNat = 2000 ∧ s.line.st ≠ .threeWayDialing ∧
      s.banks.tw.in3way = false ∧ Accepting s) ∧
    (∃ (s : State) (i : Instr), (i = .hwWinkflash ∨ i = .fakeWinkflash) ∧ LineReady s ∧ familyOf s.cfg = .loop ∧
      s.line.st.isCall = true ∧ s.banks.real.owned = true ∧ s.banks.cw.owned = false ∧ s.banks.tw.owned = true ∧
      s.line.flashV = false ∧ s.line.st ≠ .threeWayDialing ∧ s.banks.tw.in3way = true ∧ Accepting s) ∧
    (∃ (s : State) (i : Instr), (i = .hwWinkflash ∨ i = .fakeWinkflash) ∧ LineReady s ∧ familyOf s.cfg = .loop ∧
      s.line.st.isCall = true ∧ s.banks.real.owned = true ∧ s.banks.cw.owned = false ∧ s.banks.tw.owned = true ∧
      s.line.flashV = false ∧ s.line.st = .threeWayDialing ∧ Accepting s) :=
  ⟨⟨call73.updLine fun l => { l with flashV := true, flashT := 5000, now := 6999 }, .hwWinkflash, .inl rfl,
      ready (by decide), rfl, rfl, rfl, rfl, rfl, rfl, by decide, accepting rfl⟩,
    ⟨call73.updLine fun l => { l with flashV := true, flashT := 5000, now := 7000 }, .hwWinkflash, .inl rfl,
      ready (by decide), rfl, rfl, rfl, rfl, rfl, rfl, by decide, by decide, rfl, accepting rfl⟩,
    ⟨call73.updBank .tw fun b => { b with in3way := true }, .fakeWinkflash, .inr rfl, ready (by decide), rfl, rfl, rfl,
      rfl, rfl, rfl, by decide, rfl, accepting rfl⟩,
    building, .fakeWinkflash, .inr rfl, ready (by decide), rfl, rfl, rfl, rfl, rfl, rfl, rfl, accepting rfl⟩

theorem witness_WinkAndDialcomplete :
    (∃ (s : State) (i : Instr), LineReady s ∧ (i = .hwWinkflash ∨ i = .fakeWinkflash) ∧ familyOf s.cfg = .trunk ∧
      s.line.dialPending = true ∧ AcceptingNext s) ∧
    (∃ (s : State) (i : Instr), LineReady s ∧ (i = .hwWinkflash ∨ i = .fakeWinkflash) ∧ familyOf s.cfg = .trunk ∧
      s.line.dialPending = true ∧ Refusing s) ∧
    (∃ (s : State) (i : Instr), LineReady s ∧ (i = .hwWinkflash ∨ i = .fakeWinkflash) ∧ familyOf s.cfg = .trunk ∧
      s.line.dialPending = false ∧ s.banks.real.owned = true ∧ s.line.st.isCall = true) ∧
    (∃ (s : State) (i : Instr), LineReady s ∧ (i = .hwWinkflash ∨ i = .fakeWinkflash) ∧ familyOf s.cfg = .trunk ∧
      s.line.dialPending = false ∧ (s.banks.real.owned = false ∨ s.line.st.isCall = false)) ∧
    (∃ (s : State) (i : Instr), LineReady s ∧ (i = .hwWinkflash ∨ i = .fakeWinkflash) ∧ familyOf s.cfg = .radio) ∧
    (∃ (s : State) (i : Instr), LineReady s ∧ (i = .hwDialcomplete ∨ i = .fakeDialcomplete) ∧ s.line.dialing = true ∧
      s.line.st = .offered ∧ s.line.calldir = .outDial) ∧
    (∃ (s : State) (i : Instr), LineReady s ∧ (i = .hwDialcomplete ∨ i = .fakeDialcomplete) ∧ s.line.dialing = false) :=
  ⟨⟨withCfg 0 6 (dialOut.updLine fun l => { l with dialPending := true }), .hwWinkflash, ready (by decide), .inl rfl, rfl,
      rfl, rfl⟩,
    ⟨refusing (withCfg 0 9 (dialOut.updLine fun l => { l with dialPending := true })), .fakeWinkflash, ready (by decide),
      .inr rfl, rfl, rfl, rfl⟩,
    ⟨withCfg 0 6 call7, .hwWinkflash, ready (by decide), .inl rfl, rfl, rfl, rfl, rfl⟩,
    ⟨withCfg 0 6 b5, .hwWinkflash, ready (by decide), .inl rfl, rfl, rfl, .inl rfl⟩,
    ⟨withCfg 0 10 b5, .hwWinkflash, ready (by decide), .inl rfl, rfl⟩,
    ⟨dialOut.updLine fun l => { l with dialing := true }, .fakeDialcomplete, ready (by decide), .inr rfl, rfl, rfl, rfl⟩,
    b5, .hwDialcomplete, ready (by decide), .inl rfl, rfl⟩

theorem witness_RingoffWord :
    (∃ (s : State) (i : Instr), (i = .hwRingoff ∨ i = .fakeRingoff) ∧ LineReady s ∧ s.mwi.st = .alertWait ∧ Accepting s) ∧
    (∃ (s : State) (i : Instr), (i = .hwRingoff ∨ i = .fakeRingoff) ∧ LineReady s ∧ s.mwi.st ≠ .alertWait ∧
      s.line.st = .offered ∧ s.line.calldir = .outRing ∧ s.tx.kind = .cid ∧ s.tx.go = false ∧ s.conf.confSusp = false ∧
      Accepting s) ∧
    (∃ (s : State) (i : Instr), (i = .hwRingoff ∨ i = .fakeRingoff) ∧ LineReady s ∧ s.mwi.st ≠ .alertWait ∧
      ¬ (s.line.st = .offered ∧ s.line.calldir = .outRing ∧ s.tx.kind = .cid ∧ s.tx.go = false)) :=
  ⟨⟨{ b5 with mwi := { b5.mwi with st := .alertWait } }, .hwRingoff, .inl rfl, ready (by decide), rfl, accepting rfl⟩,
    ⟨{ ringOut with tx := { SpillRegs.reset with kind := .cid, len := 4067 } }, .fakeRingoff, .inr rfl, ready (by decide),
      by decide, rfl, rfl, rfl, rfl, rfl, accepting rfl⟩,
    ringOut, .hwRingoff, .inl rfl, ready (by decide), by decide, by decide⟩

/-- A DTMF Caller-ID of which `n` digits have come. -/
def gathering (n : Byte) : State :=
  { withCfg 2 2 b5 with rx := { b5.rx with st := .decoding, dtmfOpen := true, dtmflen := n } }

theorem witness_DigitWords :
    (∃ (s : State) (d : Byte) (i : Instr), LineReady s ∧ (i = .hwPulsedigit d ∨ i = .fakePulsedigit d) ∧
      wfPulse d = false) ∧
    (∃ (s : State) (d : Byte) (i : Instr), LineReady s ∧ (i = .hwPulsedigit d ∨ i = .fakePulsedigit d) ∧
      wfPulse d = true ∧ s.banks.real.owned = true ∧ s.line.hook = true ∧ s.line.st ≠ .idle) ∧
    (∃ (s : State) (d : Byte) (i : Instr), LineReady s ∧ (i = .hwDtmfdigit d ∨ i = .fakeDtmfdigit d) ∧
      wfDtmf d = false) ∧
    (∃ (s : State) (d : Byte) (i : Instr), LineReady s ∧ (i = .hwDtmfdigit d ∨ i = .fakeDtmfdigit d) ∧
      wfDtmf d = true ∧ s.line.postwin ≠ 0) ∧
    (∃ (s : State) (d : Byte) (i : Instr), LineReady s ∧ (i = .hwDtmfdigit d ∨ i = .fakeDtmfdigit d) ∧
      wfDtmf d = true ∧ s.line.postwin = 0 ∧ s.rx.st ≠ .decoding ∧ s.banks.real.owned = true ∧ s.line.hook = true ∧
      s.line.st ≠ .idle) ∧
    (∃ (s : State) (d : Byte) (i : Instr), LineReady s ∧ (i = .hwDtmfdigit d ∨ i = .fakeDtmfdigit d) ∧
      wfPulse d = true ∧ s.line.postwin = 0 ∧ s.rx.st = .decoding ∧ rxDtmf s.cfg = true ∧ s.rx.dtmfOpen = true ∧
      d ≠ s.par.codec.stopMarker ∧ s.rx.dtmflen.toNat = 15 ∧ 15 < s.par.numMax) ∧
    (∃ (s : State) (d : Byte), LineReady s ∧ wfPulse d = true ∧ s.banks.real.owned = false) ∧
    (∃ (s : State) (d : Byte), LineReady s ∧ wfDtmf d = true ∧ s.line.postwin = 0 ∧ s.rx.st = .decoding ∧
      rxDtmf s.cfg = false ∧ s.banks.real.owned = true ∧ s.line.hook = false) ∧
    (∃ (s : State) (d : Byte), LineReady s ∧ wfDtmf d = true ∧ s.line.postwin = 0 ∧ s.rx.st = .decoding ∧
      rxDtmf s.cfg = true ∧ s.rx.dtmfOpen = false ∧ d = s.par.codec.startMarker) ∧
    (∃ (s : State) (d : Byte), LineReady s ∧ wfDtmf d = true ∧ s.line.postwin = 0 ∧ s.rx.st = .decoding ∧
      rxDtmf s.cfg = true ∧ s.rx.dtmfOpen = true ∧ d = s.par.codec.stopMarker ∧ s.par.ok ∧ s.rx.dtmflen.toNat = 16) ∧
    (∃ (s : State) (d : Byte), LineReady s ∧ wfPulse d = true ∧ s.line.postwin = 0 ∧ s.rx.st = .decoding ∧
      rxDtmf s.cfg = true ∧ s.rx.dtmfOpen = true ∧ d ≠ s.par.codec.stopMarker ∧ s.rx.dtmflen.toNat = s.par.numMax) ∧
    (∃ (s : State) (d : Byte), LineReady s ∧ wfDtmf d = true ∧ wfPulse d = false ∧ s.line.postwin = 0 ∧
      s.rx.st = .decoding ∧ rxDtmf s.cfg = true ∧ s.rx.dtmfOpen = true ∧ d ≠ s.par.codec.stopMarker) :=
  ⟨⟨b5, 0x2F, .hwPulsedigit 0x2F, ready (by decide), .inl rfl, by decide⟩,
    ⟨seized, 0x30, .fakePulsedigit 0x30, ready (by decide), .inr rfl, by decide, rfl, rfl, by decide⟩,
    ⟨b5, 0x45, .hwDtmfdigit 0x45, ready (by decide), .inl rfl, by decide⟩,
    ⟨call7.updLine fun l => { l with postwin := 1 }, 0x44, .fakeDtmfdigit 0x44, ready (by decide), .inr rfl, by decide,
      by decide⟩,
    ⟨call7, 0x23, .hwDtmfdigit 0x23, ready (by decide), .inl rfl, by decide, rfl, by decide, rfl, rfl, by decide⟩,
    ⟨gathering 15, 0x39, .hwDtmfdigit 0x39, ready (by decide), .inl rfl, by decide, rfl, rfl, rfl, rfl, by decide,
      by decide, by decide⟩, ⟨b5, 0x39, ready (by decide), by decide, rfl⟩,
    ⟨{ ringIn with rx := { b5.rx with st := .decoding } }, 0x44, ready (by decide), by decide, rfl, rfl, rfl, rfl, rfl⟩,
    ⟨{ gathering 0 with rx := { b5.rx with st := .decoding } }, 0x41, ready (by decide), by decide, rfl, rfl, rfl, rfl,
      by decide⟩,
    ⟨gathering 16, 0x43, ready (by decide), by decide, rfl, rfl, rfl, rfl, by decide, by decide, by decide⟩,
    ⟨gathering 16, 0x30, ready (by decide), by decide, rfl, rfl, rfl, rfl, by decide, by decide⟩,
    gathering 3, 0x23, ready (by decide), by decide, by decide, rfl, rfl, rfl, rfl, by decide⟩

theorem witness_PolarityWord :
    (∃ (s : State) (i : Instr), (i = .hwPolarity ∨ i = .fakePolarity) ∧ LineReady s ∧ s.line.st = .idle ∧
      hasFeature s.cfg .cidRx = true ∧ cidStartOf s.cfg = .polarity ∧ s.mwi.st.isActive = false) ∧
    (∃ (s : State) (i : Instr), (i = .hwPolarity ∨ i = .fakePolarity) ∧ LineReady s ∧ s.line.st = .offered ∧
      (s.line.calldir = .outRing ∨ s.line.calldir = .outDial) ∧ hasFeature s.cfg .answerOnPol = true ∧ Accepting s) ∧
    (∃ (s : State) (i : Instr), (i = .hwPolarity ∨ i = .fakePolarity) ∧ LineReady s ∧ s.line.st.isCall = true ∧
      hasFeature s.cfg .hangupOnPol = true ∧ s.line.answered = true ∧
      (cfgPolDelayMs s.cfg).toNat + 1 = (s.line.now - s.line.answerT).toNat ∧ Accepting s) ∧
    (∃ (s : State) (i : Instr), (i = .hwPolarity ∨ i = .fakePolarity) ∧ LineReady s ∧ s.line.st.isCall = true ∧
      hasFeature s.cfg .hangupOnPol = true ∧ s.line.answered = true ∧
      (s.line.now - s.line.answerT).toNat = (cfgPolDelayMs s.cfg).toNat) :=
  ⟨⟨withCfg 1 0x800 (withCfg 2 4 b5), .hwPolarity, .inl rfl, ready (by decide), rfl, rfl, rfl, rfl⟩,
    ⟨withCfg 1 0x10 dialOut, .fakePolarity, .inr rfl, ready (by decide), rfl, .inr rfl, rfl, accepting rfl⟩,
    ⟨withCfg 1 0x20 (call7.updLine fun l => { l with now := 601 }), .hwPolarity, .inl rfl, ready (by decide), rfl, rfl,
      rfl, by decide, accepting rfl⟩,
    withCfg 1 0x20 (call7.updLine fun l => { l with now := 600 }), .hwPolarity, .inl rfl, ready (by decide), rfl, rfl,
      rfl, by decide⟩

theorem witness_AlarmWords :
    (∃ (s : State) (i : Instr), s.line.configured = true ∧ (i = .hwAlarm ∨ i = .fakeAlarm) ∧ s.mwi.st.isActive = false ∧
      s.line.st ≠ .idle ∧ s.line.st ≠ .releasing ∧ Accepting s) ∧
    (∃ (s : State) (i : Instr), s.line.configured = true ∧ (i = .hwAlarm ∨ i = .fakeAlarm) ∧ s.mwi.st.isActive = false ∧
      (s.line.st = .idle ∨ s.line.st = .releasing)) ∧
    (∃ (s : State) (i : Instr), s.line.configured = true ∧ (i = .hwNoalarm ∨ i = .fakeNoalarm)) :=
  ⟨⟨ringIn, .hwAlarm, rfl, .inl rfl, rfl, by decide, by decide, accepting rfl⟩,
    ⟨releasing, .fakeAlarm, rfl, .inr rfl, rfl, .inr rfl⟩, alarmed, .fakeNoalarm, rfl, .inr rfl⟩

theorem witness_CfgwrWord :
    (∃ (s : State) (reg : Byte) (value : Half), s.line.configured = false ∧ wfCfg reg value = true) ∧
    (∃ s : State, s.line.configured = true) ∧
    (∃ (s : State) (reg : Byte), s.line.configured = false ∧ 0x40 ≤ reg) ∧
    (∃ (s : State) (reg : Byte) (value : Half), s.line.configured = false ∧ reg < 0x40 ∧ wfCfg reg value = false) :=
  ⟨⟨fresh, 0x1C, 0xFFFF, rfl, by decide⟩, ⟨b5, rfl⟩, ⟨fresh, 0x40, rfl, by decide⟩, fresh, 0x3F, 0, rfl, by decide, by decide⟩

theorem witness_CfgdoneWord :
    (∃ s : State, s.line.configured = false ∧ AcceptingNext s ∧ Accepting s) ∧
    (∃ s : State, s.line.configured = false ∧ Refusing s) ∧
    (∃ s : State, s.line.configured = true) := 
  ⟨⟨fresh, rfl, rfl, accepting rfl⟩, ⟨refusing fresh, rfl, rfl⟩, b5, rfl⟩

theorem witness_BufferWords :
    (∃ (s : State) (space : BitVec 3) (sp : Space) (addr : Byte), spaceOf space = some sp ∧ space ≤ 1 ∧
      addr.toNat + 1 = sp.size s.par) ∧
    (∃ (s : State) (space : BitVec 3) (sp : Space) (addr : Half), spaceOf space = some sp ∧ addr.toNat + 1 = sp.size s.par) ∧
    (∃ (s : State) (space : BitVec 3) (sp : Space) (addr : Half), spaceOf space = some sp ∧ sp.size s.par = addr.toNat) ∧
    (∃ (s : State) (space : BitVec 3) (sp : Space) (addr : Byte), spaceOf space = some sp ∧ space ≤ 1 ∧
      sp.size s.par = addr.toNat) ∧
    (∃ (space : BitVec 3) (sp : Space), spaceOf space = some sp ∧ 1 < space) ∧ (∃ space : BitVec 3, space = 7) :=
  ⟨⟨b5, 1, .dialbuf, 63, rfl, by decide, by decide⟩, ⟨b5, 4, .rxacc, 32767, rfl, by decide⟩,
    ⟨b5, 3, .rxbuf, 160, rfl, by decide⟩, ⟨b5, 0, .cidmsg, 64, rfl, by decide, by decide⟩, ⟨2, .spill, rfl, by decide⟩, 7, rfl⟩

theorem witness_RdregWord : (∃ reg : Byte, reg < 0x1D) ∧ (∃ reg : Byte, 0x1D ≤ reg ∧ reg < 0x80 ∨ 0xB5 ≤ reg) :=
  ⟨⟨0x1C, by decide⟩, 0xB5, by decide⟩

theorem witness_AllocWord :
    (∃ (s : State) (leg : BitVec 2) (x : Leg), s.line.configured = true ∧ legOf leg = some x ∧ (s.bank x).alloc = true) ∧
    (∃ (s : State) (leg : BitVec 2) (x : Leg), s.line.configured = true ∧ legOf leg = some x ∧ (s.bank x).alloc = false ∧
      AcceptingNext s) ∧
    (∃ (s : State) (leg : BitVec 2) (x : Leg), s.line.configured = true ∧ legOf leg = some x ∧ (s.bank x).alloc = false ∧
      Refusing s) :=
  ⟨⟨b5, 0, .r, rfl, rfl, rfl⟩, ⟨call73, 1, .cw, rfl, rfl, rfl, rfl⟩, refusing b5, 2, .tw, rfl, rfl, rfl, rfl⟩

theorem witness_ReleaseWord :
    (∃ (s : State) (leg : BitVec 2) (x : Leg), s.line.configured = true ∧ legOf leg = some x ∧ x = .r) ∧
    (∃ (s : State) (leg : BitVec 2) (x : Leg), s.line.configured = true ∧ legOf leg = some x ∧ x ≠ .r ∧
      (s.bank x).alloc = false) ∧
    (∃ (s : State) (leg : BitVec 2) (x : Leg), s.line.configured = true ∧ legOf leg = some x ∧ x ≠ .r ∧
      (s.bank x).alloc = true ∧ Accepting s) :=
  ⟨⟨b5, 0, .r, rfl, rfl, rfl⟩, ⟨b5, 1, .cw, rfl, rfl, by decide, rfl⟩,
    call73, 2, .tw, rfl, rfl, by decide, rfl, accepting rfl⟩

theorem witness_SwapWord :
    (∃ (s : State) (a b : BitVec 2) (x y : Leg), s.line.configured = true ∧ legOf a = some x ∧ legOf b = some y ∧ x = y) ∧
    (∃ (s : State) (a b : BitVec 2) (x y : Leg), s.line.configured = true ∧ legOf a = some x ∧ legOf b = some y ∧ x ≠ y ∧
      ((s.bank x).alloc = false ∨ (s.bank y).alloc = false)) ∧
    (∃ (s : State) (a b : BitVec 2) (x y : Leg), s.line.configured = true ∧ legOf a = some x ∧ legOf b = some y ∧ x ≠ y ∧
      (s.bank x).alloc = true ∧ (s.bank y).alloc = true ∧ (x = .r ∨ y = .r) ∧ Accepting s) ∧
    (∃ (s : State) (a b : BitVec 2) (x y : Leg), s.line.configured = true ∧ legOf a = some x ∧ legOf b = some y ∧ x ≠ y ∧
      (s.bank x).alloc = true ∧ (s.bank y).alloc = true ∧ x ≠ .r ∧ y ≠ .r) ∧
    (∃ (s : State) (a b : BitVec 2), s.line.configured = true ∧ legOf a = none ∧ legOf b = some .r) :=
  ⟨⟨b5, 2, 2, .tw, .tw, rfl, rfl, rfl, rfl⟩, ⟨b5, 0, 1, .r, .cw, rfl, rfl, rfl, by decide, .inr rfl⟩,
    ⟨call73, 2, 0, .tw, .r, rfl, rfl, rfl, by decide, rfl, rfl, .inr rfl, accepting rfl⟩,
    ⟨withCall .cw 2 9 call73, 1, 2, .cw, .tw, rfl, rfl, rfl, by decide, rfl, rfl, by decide, by decide⟩,
    b5, 3, 0, rfl, rfl, rfl⟩

theorem witness_SwapIsInvolution :
    ∃ (s t u : State) (a b : BitVec 2), exec (.hostSwap a b) s = .next t ∧ exec (.hostSwap a b) t = .next u ∧
      s.tx.linSaved = false ∧ Leg.r ≠ .tw :=
  ⟨call73, _, _, 0, 2, rfl, rfl, rfl, nofun⟩

theorem witness_ReconcileWord :
    (∃ s : State, s.line.configured = true ∧ Accepting s ∧ s.banks.real.alloc = true ∧ s.conf.confSusp = false ∧
      s.conf.masterV = false ∧ s.conf.inconf = true ∧ s.conf.nslaves = 0) ∧
    (∃ s : State, s.line.configured = true ∧ Accepting s ∧ s.conf.inconf = false ∧ s.conf.nslaves = 0 ∧
      s.conf.masterV = false ∧ ∀ x : Leg, (s.bank x).in3way = false) ∧
    (∃ s : State, s.line.configured = true ∧ Accepting s ∧ s.conf.nslaves = 1 ∧ s.conf.slaves[0].law = cfgLaw s.cfg ∧
      ∀ x : Leg, (s.bank x).in3way = false) ∧
    (∃ s : State, s.line.configured = true ∧ Accepting s ∧ s.conf.nslaves = 4) ∧
    (∃ (s : State) (x : Leg), s.line.configured = true ∧ Accepting s ∧ x ≠ .r ∧ (s.bank x).alloc = true ∧
      (s.bank x).in3way = true) ∧
    (∃ s : State, s.line.configured = true ∧ Accepting s ∧ s.conf.confSusp = true ∧ s.banks.real.alloc = true) ∧
    (∃ s : State, s.line.configured = true ∧ Accepting s ∧ s.conf.masterV = true ∧ s.conf.masterNative = true) ∧
    (∃ s : State, s.line.configured = true ∧ Accepting s ∧ s.conf.masterV = true ∧ s.conf.masterNative = false ∧
      s.conf.masterConfnoV = true) :=
  ⟨⟨b5.updConf fun c => { c with inconf := true }, rfl, accepting rfl, rfl, rfl, rfl, rfl, rfl⟩,
    ⟨b5, rfl, accepting rfl, rfl, rfl, rfl, by intro x; cases x <;> rfl⟩,
    ⟨oneSlave, rfl, accepting rfl, rfl, rfl, by intro x; cases x <;> rfl⟩,
    ⟨withSlaves 4, rfl, accepting rfl, rfl⟩,
    ⟨call73.updBank .tw fun b => { b with in3way := true }, .tw, rfl, accepting rfl, by decide, rfl, rfl⟩,
    ⟨sending, rfl, accepting rfl, rfl, rfl⟩,
    ⟨b5.updConf fun c => { c with masterV := true, masterId := 6, masterNative := true }, rfl, accepting rfl, rfl, rfl⟩,
    b5.updConf fun c => { c with masterV := true, masterId := 6, masterConfnoV := true, masterConfno := 6 }, rfl,
    accepting rfl, rfl, rfl, rfl⟩

theorem witness_ReconcileIsIdempotent :
    (∃ s t : State, s.line.configured = true ∧ 7 ≤ s.env.answers.length ∧ exec .hostReconcile s = .next t ∧
      failedCommands s t = [] ∧ (newWords s t).length = 1) ∧
    (∃ s t : State, s.line.configured = true ∧ 7 ≤ s.env.answers.length ∧ exec .hostReconcile s = .next t ∧
      (failedCommands s t).length = 1) :=
  ⟨⟨b5.updConf fun c => { c with inconf := true }, _, rfl, by decide, rfl, by decide, by decide⟩,
    refusing (b5.updConf fun c => { c with inconf := true }), _, rfl, by decide, rfl, by decide⟩

theorem witness_SlaveWords :
    (∃ (s : State) (line : Byte), s.line.configured = true ∧ line = lineId s) ∧
    (∃ (s : State) (line : Byte), s.line.configured = true ∧ line ≠ lineId s ∧ slaveIndex line s = none ∧
      s.conf.nslaves.toNat = 3 ∧ 3 < s.par.nSlaves ∧ s.par.nSlaves ≤ 4 ∧ Accepting s) ∧
    (∃ (s : State) (line : Byte), s.line.configured = true ∧ line ≠ lineId s ∧ slaveIndex line s = none ∧
      s.par.nSlaves = s.conf.nslaves.toNat) ∧
    (∃ (s : State) (line : Byte) (i : Nat), s.line.configured = true ∧ line ≠ lineId s ∧ i < 4 ∧
      i + 1 = s.conf.nslaves.toNat ∧ (slaveAt i s).id = line ∧ (∀ j < i, (slaveAt j s).id ≠ line) ∧ Accepting s) ∧
    (∃ (s : State) (line : Byte), s.line.configured = true ∧ slaveIndex line s = none) ∧
    (∃ (s : State) (line : Byte) (i : Nat), s.line.configured = true ∧ i = 1 ∧ i < s.conf.nslaves.toNat ∧
      (slaveAt i s).id = line ∧ (∀ j < i, (slaveAt j s).id ≠ line) ∧ Accepting s) :=
  ⟨⟨b5, 5, rfl, by decide⟩, ⟨withSlaves 3, 10, rfl, by decide, by decide, by decide, by decide, by decide, accepting rfl⟩,
    ⟨withSlaves 4, 10, rfl, by decide, by decide, by decide⟩,
    ⟨withSlaves 1, 6, 0, rfl, by decide, by decide, by decide, by decide, by decide, accepting rfl⟩,
    ⟨b5, 9, rfl, by decide⟩, withSlaves 4, 7, 1, rfl, rfl, by decide, by decide, by decide, accepting rfl⟩

theorem witness_MasterAndInconfWords :
    (∃ (s : State) (line : Byte), s.line.configured = true ∧ line = lineId s) ∧
    (∃ (s : State) (line : Byte), s.line.configured = true ∧ line ≠ lineId s ∧ Accepting s ∧ s.banks.real.alloc = true ∧
      s.conf.confSusp = false) := ⟨⟨b5, 5, rfl, by decide⟩, b5, 6, rfl, by decide, accepting rfl, rfl, rfl⟩

theorem witness_CallWord :
    (∃ s : State, s.line.configured = true ∧ s.line.st ≠ .idle) ∧
    (∃ s : State, s.line.configured = true ∧ s.line.inalarm = true) ∧
    (∃ (s : State) (n : Byte) (mode : Bool), s.line.configured = true ∧ s.line.st = .idle ∧ mode = true ∧ s.par.dialMax + 1 = n.toNat) ∧
    (∃ (s : State) (n : Byte) (mode : Bool), s.line.configured = true ∧ s.line.st = .idle ∧ s.line.inalarm = false ∧
      (mode = true → n.toNat ≤ s.par.dialMax) ∧ s.mwi.st.isActive = false ∧ Refusing s) ∧
    (∃ s : State, s.line.configured = true ∧ s.line.st = .idle ∧ s.line.inalarm = false ∧ s.mwi.st.isActive = false ∧
      AcceptingNext s ∧ hasFeature s.cfg .cidTx = false) ∧
    (∃ s : State, s.line.configured = true ∧ s.line.st = .idle ∧ s.line.inalarm = false ∧ s.mwi.st.isActive = false ∧
      AcceptingNext s ∧ hasFeature s.cfg .cidTx = true ∧ s.par.ok ∧ Accepting s) ∧
    (∃ (s : State) (n : Byte), s.line.configured = true ∧ s.line.st = .idle ∧ s.line.inalarm = false ∧
      s.mwi.st.isActive = false ∧ AcceptingNext s ∧ n.toNat = s.par.dialMax ∧ familyOf s.cfg = .trunk) ∧
    (∃ (s : State) (n : Byte), s.line.configured = true ∧ s.line.st = .idle ∧ s.line.inalarm = false ∧
      s.mwi.st.isActive = false ∧ AcceptingNext s ∧ n = 1 ∧ familyOf s.cfg ≠ .trunk ∧ Accepting s) ∧
    (∃ (s : State) (n : Byte) (rest : List Answer), s.line.configured = true ∧ s.line.st = .idle ∧ s.line.inalarm = false ∧
      s.mwi.st.isActive = false ∧ AcceptingNext s ∧ n.toNat ≤ s.par.dialMax ∧ s.env.answers = .ok :: .notOk :: rest ∧
      familyOf s.cfg ≠ .trunk ∧ 0 < n) :=
  ⟨⟨call7, rfl, by decide⟩, ⟨alarmed, rfl, rfl⟩, ⟨b5, 65, true, rfl, rfl, rfl, by decide⟩,
    ⟨refusing b5, 64, true, rfl, rfl, rfl, by decide, rfl, rfl⟩, ⟨withCfg 1 0 b5, rfl, rfl, rfl, rfl, rfl, rfl⟩,
    ⟨b5, rfl, rfl, rfl, rfl, rfl, rfl, lawful rfl, accepting rfl⟩, ⟨withCfg 0 6 b5, 64, rfl, rfl, rfl, rfl, rfl, by decide, rfl⟩,
    ⟨b5, 1, rfl, rfl, rfl, rfl, rfl, rfl, by decide, accepting rfl⟩,
    { b5 with env := { b5.env with answers := [.ok, .notOk] } }, 1, [], rfl, rfl, rfl, rfl, rfl, by decide, rfl, by decide,
    by decide⟩

theorem witness_UpWord :
    (∃ s : State, s.line.configured = true ∧ s.banks.real.owned = true ∧ s.line.st = .offered ∧
      s.line.calldir = .inbound ∧ s.line.hook = false ∧ AcceptingNext s) ∧
    (∃ s : State, s.line.configured = true ∧ s.banks.real.owned = true ∧ s.line.st = .offered ∧
      s.line.calldir = .inbound ∧ s.line.hook = false ∧ Refusing s) ∧
    (∃ s : State, s.line.configured = true ∧ s.banks.real.owned = true ∧ s.line.st = .offered ∧
      s.line.calldir = .inbound ∧ s.line.hook = true ∧ Accepting s) ∧
    (∃ s : State, s.line.configured = true ∧ s.banks.real.owned = true ∧ s.line.st = .offered ∧
      s.line.calldir = .outDial ∧ Accepting s) ∧
    (∃ s : State, s.line.configured = true ∧ s.banks.real.owned = true ∧ s.line.st = .threeWayDialing ∧ Accepting s) ∧
    (∃ s : State, s.line.configured = true ∧ s.banks.real.owned = false) ∧
    (∃ s : State, s.line.configured = true ∧ s.line.st ≠ .offered ∧ s.line.st ≠ .threeWayDialing) ∧
    (∃ s : State, s.line.configured = true ∧ s.line.st = .offered ∧ s.line.calldir = .outRing) :=
  ⟨⟨ringIn, rfl, rfl, rfl, rfl, rfl, rfl⟩, ⟨refusing ringIn, rfl, rfl, rfl, rfl, rfl, rfl⟩,
    ⟨seized, rfl, rfl, rfl, rfl, rfl, accepting rfl⟩, ⟨dialOut, rfl, rfl, rfl, rfl, accepting rfl⟩,
    ⟨building, rfl, rfl, rfl, accepting rfl⟩, ⟨b5, rfl, rfl⟩, ⟨call7, rfl, by decide, by decide⟩, ringOut, rfl, rfl, rfl⟩

theorem witness_HangupReal :
    (∃ s : State, s.line.configured = true ∧ s.banks.real.owned = true ∧ s.banks.cw.owned = false ∧
      s.banks.tw.owned = false ∧ Accepting s) ∧
    (∃ s : State, s.line.configured = true ∧ s.banks.real.owned = true ∧ s.banks.cw.owned = true ∧ Accepting s) ∧
    (∃ s : State, s.line.configured = true ∧ s.banks.real.owned = true ∧ s.banks.cw.owned = false ∧
      s.banks.tw.owned = true ∧ Accepting s) :=
  ⟨⟨call7, rfl, rfl, rfl, rfl, accepting rfl⟩, ⟨call78, rfl, rfl, rfl, accepting rfl⟩,
    call73, rfl, rfl, rfl, rfl, accepting rfl⟩

theorem witness_HangupOtherLeg :
    (∃ s : State, s.line.configured = true ∧ s.banks.cw.owned = true ∧ s.tx.kind = .cwcid ∧ Accepting s) ∧
    (∃ s : State, s.line.configured = true ∧ s.banks.cw.owned = true ∧ s.tx.kind ≠ .cwcid ∧ Accepting s) ∧
    (∃ s : State, s.line.configured = true ∧ s.banks.tw.owned = true ∧ s.line.st ≠ .threeWayDialing ∧ Accepting s) ∧
    (∃ s : State, s.line.configured = true ∧ s.banks.tw.owned = true ∧ s.line.st = .threeWayDialing ∧ Accepting s) ∧
    (∃ (s : State) (leg : BitVec 2) (x : Leg), s.line.configured = true ∧ legOf leg = some x ∧ (s.bank x).owned = false) :=
  ⟨⟨{ call78 with tx := { SpillRegs.reset with kind := .cwcid, len := 2400, go := true } }, rfl, rfl, rfl, accepting rfl⟩,
    ⟨call78, rfl, rfl, by decide, accepting rfl⟩, ⟨call73, rfl, rfl, by decide, accepting rfl⟩,
    ⟨building, rfl, rfl, rfl, accepting rfl⟩, call7, 1, .cw, rfl, rfl, rfl⟩

theorem witness_CwofferWord :
    (∃ s : State, s.line.configured = true ∧ hasFeature s.cfg .callWaiting = true ∧ s.line.st = .active ∧
      s.line.hook = true ∧ s.banks.cw.alloc = false ∧ s.banks.tw.alloc = false ∧ Accepting s ∧
      s.par.ok ∧ hasFeature s.cfg .cwCid = false) ∧
    (∃ s : State, s.line.configured = true ∧ hasFeature s.cfg .callWaiting = true ∧ s.line.st = .active ∧
      s.line.hook = true ∧ s.banks.cw.alloc = false ∧ s.banks.tw.alloc = false ∧ Accepting s ∧
      s.par.ok ∧ hasFeature s.cfg .cwCid = true) ∧
    (∃ s : State, s.line.configured = true ∧ hasFeature s.cfg .callWaiting = false) ∧
    (∃ s : State, s.line.configured = true ∧ s.line.st ≠ .active) ∧
    (∃ s : State, s.line.configured = true ∧ s.line.hook = false) ∧
    (∃ s : State, s.line.configured = true ∧ hasFeature s.cfg .callWaiting = true ∧ s.line.st = .active ∧
      s.line.hook = true ∧ (s.banks.cw.alloc = true ∨ s.banks.tw.alloc = true)) ∧
    (∃ s : State, s.line.configured = true ∧ hasFeature s.cfg .callWaiting = true ∧ s.line.st = .active ∧
      s.line.hook = true ∧ s.banks.cw.alloc = false ∧ s.banks.tw.alloc = false ∧ Refusing s) :=
  ⟨⟨withCfg 1 0x0403 call7, rfl, rfl, rfl, rfl, rfl, rfl, accepting rfl, lawful rfl, rfl⟩,
    ⟨call7, rfl, rfl, rfl, rfl, rfl, rfl, accepting rfl, lawful rfl, rfl⟩, ⟨withCfg 1 0 call7, rfl, rfl⟩,
    ⟨seized, rfl, by decide⟩, ⟨ringIn, rfl, rfl⟩, ⟨call73, rfl, rfl, rfl, rfl, .inr rfl⟩,
    refusing call7, rfl, rfl, rfl, rfl, rfl, rfl, rfl⟩

theorem witness_PollWord :
    (∃ (s : State) (leg : BitVec 2) (x : Leg), s.line.configured = true ∧ legOf leg = some x) ∧
    (∃ (s : State) (leg : BitVec 2) (x : Leg), s.line.configured = true ∧ legOf leg = some x ∧
      (s.bank x).alloc = false ∧ BankInv s) ∧
    (∃ (s : State) (leg : BitVec 2), s.line.configured = true ∧ legOf leg = none) :=
  ⟨⟨call78, 1, .cw, rfl, rfl⟩,
    ⟨call78, 2, .tw, rfl, rfl, rfl, rfl, by intro x y; cases x <;> cases y <;> decide, by intro x; cases x <;> decide,
      by intro x; cases x <;> decide, .inr rfl, by intro x; cases x <;> decide⟩, b5, 3, rfl, rfl⟩

theorem witness_SetlinearAndIndicate :
    (∃ (s : State) (leg : BitVec 2) (b : Bool) (x : Leg), s.line.configured = true ∧ legOf leg = some x ∧
      (s.bank x).alloc = true ∧ ¬ (x = .r ∧ s.tx.go = true) ∧ (s.bank x).linear ≠ b ∧ AcceptingNext s) ∧
    (∃ (s : State) (leg : BitVec 2) (b : Bool) (x : Leg), s.line.configured = true ∧ legOf leg = some x ∧
      (s.bank x).alloc = true ∧ ¬ (x = .r ∧ s.tx.go = true) ∧ (s.bank x).linear ≠ b ∧ Refusing s) ∧
    (∃ (s : State) (leg : BitVec 2) (x : Leg), s.line.configured = true ∧ legOf leg = some x ∧ (s.bank x).alloc = false) ∧
    (∃ (s : State) (leg : BitVec 2) (b : Bool) (x : Leg), s.line.configured = true ∧ legOf leg = some x ∧
      (s.bank x).alloc = true ∧ ¬ (x = .r ∧ s.tx.go = true) ∧ (s.bank x).linear = b) ∧
    (∃ s : State, s.line.configured = true ∧ s.banks.real.alloc = true ∧ s.tx.go = true) ∧
    (∃ s : State, s.line.configured = true ∧ s.banks.real.owned = true ∧ s.line.hook = true ∧
      s.line.st = .threeWayDialing ∧ Accepting s) ∧
    (∃ (s : State) (cond : BitVec 2), s.line.configured = true ∧ s.banks.real.owned = true ∧ s.line.hook = true ∧
      s.line.st = .offered ∧ s.line.calldir = .inbound ∧ cond ≠ 0 ∧ Accepting s) ∧
    (∃ s : State, s.line.configured = true ∧ s.banks.real.owned = false) ∧
    (∃ s : State, s.line.configured = true ∧ s.line.hook = false) ∧
    (∃ s : State, s.line.configured = true ∧ s.line.st ≠ .threeWayDialing ∧
      ¬ (s.line.st = .offered ∧ s.line.calldir = .inbound)) :=
  ⟨⟨call7, 0, true, .r, rfl, rfl, rfl, by decide, by decide, rfl⟩,
    ⟨refusing call73, 2, true, .tw, rfl, rfl, rfl, by decide, by decide, rfl⟩, ⟨b5, 1, .cw, rfl, rfl, rfl⟩,
    ⟨call7, 0, false, .r, rfl, rfl, rfl, by decide, rfl⟩, ⟨sending, rfl, rfl, rfl⟩,
    ⟨building, rfl, rfl, rfl, rfl, accepting rfl⟩, ⟨seized, 3, rfl, rfl, rfl, rfl, rfl, by decide, accepting rfl⟩,
    ⟨b5, rfl, rfl⟩, ⟨ringIn, rfl, rfl⟩, dialOut, rfl, by decide, by decide⟩

theorem witness_MwinotifyWord :
    (∃ (s : State) (b : Bool), s.line.configured = true ∧ b = s.mwi.msgs) ∧
    (∃ (s : State) (b : Bool), s.line.configured = true ∧ b ≠ s.mwi.msgs ∧ hasFeature s.cfg .mwiSend = false) ∧
    (∃ (s : State) (b : Bool), s.line.configured = true ∧ b ≠ s.mwi.msgs ∧ hasFeature s.cfg .mwiSend = true ∧
      ¬ QuietForMwi s) ∧
    (∃ (s : State) (b : Bool), s.line.configured = true ∧ b ≠ s.mwi.msgs ∧ hasFeature s.cfg .mwiSend = true ∧
      hasFeature s.cfg .mwiRpas = true ∧ QuietForMwi s) ∧
    (∃ (s : State) (b : Bool), s.line.configured = true ∧ b ≠ s.mwi.msgs ∧ hasFeature s.cfg .mwiSend = true ∧
      hasFeature s.cfg .mwiRpas = false ∧ QuietForMwi s ∧ s.par.ok ∧ Accepting s) :=
  ⟨⟨b5, false, rfl, rfl⟩, ⟨b5, true, rfl, by decide, rfl⟩,
    ⟨withCfg 1 0x100 seized, true, rfl, by decide, rfl, fun h => nomatch h.idle⟩,
    ⟨withCfg 1 0x300 b5, true, rfl, by decide, rfl, rfl, ⟨rfl, rfl, rfl, rfl, rfl, rfl, rfl, rfl⟩⟩,
    withCfg 1 0x100 b5, true, rfl, by decide, rfl, rfl, ⟨rfl, rfl, rfl, rfl, rfl, rfl, rfl, rfl⟩, lawful rfl, accepting rfl⟩

/-- `b5` with the engine in a state and a notification waiting or not. -/
def mwiAt (st : MwiState) (pending : Bool) : State :=
  { withCfg 1 0x100 b5 with mwi := { MwiRegs.reset with st := st, pending := pending, deadline := 40 } }

/-- The premises of the ticks of `Obligations.MwinotifyWord`. -/
def MwiTicks (s : State) : Prop := CalmLine s ∧ CalmRx s ∧ s.line.st = .idle

theorem calmRx {s : State} (h : s.rx = CidRxRegs.reset) (hd : resultDue s = false) : CalmRx s :=
  ⟨by rw [h]; rfl, by rw [h]; rfl, .inl hd⟩

theorem counting {s : State} (h : s.line.configured = true ∧ s.line.st ≠ .releasing ∧ s.line.ringt ≠ 1 ∧
    s.line.cwrepeat ≠ 1) : CountingLine s := ⟨h.1, h.2.1, .inl h.2.2.1, .inl h.2.2.2⟩

theorem calmLine {s : State} (h : s.line.configured = true ∧ s.line.st ≠ .releasing ∧ s.line.ringt ≠ 1 ∧
    s.line.cwrepeat ≠ 1) (hg : s.tx.go = false) : CalmLine s := ⟨counting h, hg⟩

theorem mwiTicks {s : State} (h : s.line.configured = true ∧ s.line.st ≠ .releasing ∧ s.line.ringt ≠ 1 ∧
    s.line.cwrepeat ≠ 1) (hg : s.tx.go = false) (hr : s.rx = CidRxRegs.reset) (hd : resultDue s = false)
    (hs : s.line.st = .idle) : MwiTicks s := ⟨calmLine h hg, calmRx hr hd, hs⟩

theorem witness_MwinotifyWord_ticks :
    (∃ s : State, MwiTicks s ∧ s.mwi.st = .sendAlert ∧ AcceptingNext s) ∧
    (∃ s : State, MwiTicks s ∧ s.mwi.st = .sendAlert ∧ Refusing s ∧ 1 < s.line.hkcnt) ∧
    (∃ s : State, MwiTicks s ∧ s.mwi.st = .alertWait) ∧
    (∃ s : State, MwiTicks s ∧ s.mwi.st = .pause ∧ reachedAt (s.line.ticked s.par).now s.mwi.deadline = false) ∧
    (∃ s : State, MwiTicks s ∧ s.mwi.st = .pause ∧ (s.line.ticked s.par).now = s.mwi.deadline ∧
      reachedAt (s.line.ticked s.par).now s.mwi.deadline = true ∧ s.par.ok) ∧
    (∃ s : State, MwiTicks s ∧ s.mwi.st = .sendSpill ∧ s.tx.kind = .none) ∧
    (∃ s : State, MwiTicks s ∧ s.mwi.st = .cleanup ∧ s.line.hkcnt = 2) ∧
    (∃ s : State, MwiTicks s ∧ s.mwi.st = .done ∧ s.mwi.pending = false) ∧
    (∃ s : State, MwiTicks s ∧ s.mwi.st = .done ∧ s.mwi.pending = true ∧ hasFeature s.cfg .mwiSend = true ∧
      QuietForMwi s ∧ s.par.ok) ∧
    (∃ s : State, MwiTicks s ∧ s.mwi.st = .null ∧ s.line.hkcnt = 2) ∧
    (∃ s : State, MwiTicks s ∧ s.mwi.st = .null ∧ s.line.hkcnt = 1 ∧ s.mwi.pending = true ∧
      hasFeature s.cfg .mwiSend = true ∧ QuietForMwi s ∧ hasFeature s.cfg .mwiRpas = false ∧ s.par.ok) :=
  ⟨⟨mwiAt .sendAlert false, mwiTicks (by decide) rfl rfl rfl rfl, rfl, rfl⟩,
    ⟨refusing (mwiAt .sendAlert false), mwiTicks (by decide) rfl rfl rfl rfl, rfl, rfl, by decide⟩,
    ⟨mwiAt .alertWait true, mwiTicks (by decide) rfl rfl rfl rfl, rfl⟩, ⟨mwiAt .pause false, mwiTicks (by decide) rfl rfl rfl rfl, rfl, by decide⟩,
    ⟨(mwiAt .pause false).updLine fun l => { l with now := 20 }, mwiTicks (by decide) rfl rfl rfl rfl, rfl, by decide, by decide, lawful rfl⟩,
    ⟨mwiAt .sendSpill false, mwiTicks (by decide) rfl rfl rfl rfl, rfl, rfl⟩,
    ⟨(mwiAt .cleanup true).updLine fun l => { l with hkcnt := 2 }, mwiTicks (by decide) rfl rfl rfl rfl, rfl, rfl⟩,
    ⟨mwiAt .done false, mwiTicks (by decide) rfl rfl rfl rfl, rfl, rfl⟩,
    ⟨mwiAt .done true, mwiTicks (by decide) rfl rfl rfl rfl, rfl, rfl, rfl, ⟨rfl, rfl, rfl, rfl, rfl, rfl, rfl, rfl⟩, lawful rfl⟩,
    ⟨(mwiAt .null true).updLine fun l => { l with hkcnt := 2 }, mwiTicks (by decide) rfl rfl rfl rfl, rfl, rfl⟩,
    (mwiAt .null true).updLine fun l => { l with hkcnt := 1 }, mwiTicks (by decide) rfl rfl rfl rfl, rfl, rfl, rfl, rfl,
    ⟨rfl, rfl, rfl, rfl, rfl, rfl, rfl, rfl⟩, rfl, lawful rfl⟩

/-- The engine's spill waits, sends a frame that is not its last (one sample is left), its last, and one that is refused. -/
theorem witness_MwinotifyWord_spill :
    (∃ s : State, CountingLine s ∧ CalmRx s ∧ s.line.st = .idle ∧ s.mwi.st = .sendSpill ∧ s.tx.kind ≠ .none ∧
      s.tx.go = true) ∧
    (∃ s : State, CountingLine s ∧ CalmRx s ∧ s.line.st = .idle ∧ s.mwi.st = .sendSpill ∧ s.tx.kind ≠ .none ∧
      s.tx.go = true ∧ 0 < s.par.codec.frameSamples ∧ s.tx.rd.toNat + s.par.codec.frameSamples + 1 = s.tx.len.toNat ∧
      AcceptingNext s) ∧
    (∃ s : State, CountingLine s ∧ CalmRx s ∧ s.line.st = .idle ∧ s.mwi.st = .sendSpill ∧ s.tx.kind ≠ .none ∧
      s.tx.go = true ∧ s.tx.rd < s.tx.len ∧ s.tx.len.toNat = s.tx.rd.toNat + s.par.codec.frameSamples ∧ AcceptingNext s ∧
      Accepting s ∧ s.conf.confSusp = true) ∧
    (∃ s : State, CountingLine s ∧ CalmRx s ∧ s.line.st = .idle ∧ s.mwi.st = .sendSpill ∧ s.tx.kind ≠ .none ∧
      s.tx.go = true ∧ 0 < s.par.codec.frameSamples ∧ s.tx.rd < s.tx.len ∧ Refusing s) :=
  ⟨⟨mwiSpilling, counting (by decide), calmRx rfl rfl, rfl, rfl, by decide, rfl⟩,
    ⟨{ mwiSpilling with tx := { mwiSpilling.tx with rd := 3839 } }, counting (by decide), calmRx rfl rfl, rfl, rfl, by decide,
      rfl, by decide, by decide, rfl⟩,
    ⟨{ mwiSpilling with tx := { mwiSpilling.tx with rd := 3840 } }, counting (by decide), calmRx rfl rfl, rfl, rfl, by decide,
      rfl, by decide, by decide, rfl, accepting rfl, rfl⟩,
    refusing mwiSpilling, counting (by decide), calmRx rfl rfl, rfl, rfl, by decide, rfl, by decide, by decide, rfl⟩

theorem witness_MwiYields :
    (∃ (s : State) (i : Instr), LineReady s ∧ s.line.st = .idle ∧ s.mwi.st.isActive = true ∧ s.mwi.st ≠ .cleanup ∧
      i = .hwOffhook) ∧
    (∃ (s : State) (i : Instr) (mode : Bool) (n tag : Byte), LineReady s ∧ s.line.st = .idle ∧ s.mwi.st.isActive = true ∧
      s.mwi.st = .cleanup ∧ i = .hostCall mode n tag ∧ (mode = true → n.toNat ≤ s.par.dialMax)) :=
  ⟨⟨mwiSpilling, .hwOffhook, ready (by decide), rfl, rfl, by decide, rfl⟩,
    { b5 with mwi := { b5.mwi with st := .cleanup } }, .hostCall true 64 1, true, 64, 1, ready (by decide), rfl, rfl, rfl,
    rfl, by decide⟩

theorem calmMwi {s : State} (h : s.mwi = MwiRegs.reset) : CalmMwi s := ⟨by rw [h]; rfl, by rw [h]; rfl⟩

theorem witness_TickWord :
    (∃ s : State, s.line.configured = true ∧ s.line.st = .idle ∧ s.tx.go = false ∧ CalmRx s ∧ CalmMwi s ∧
      s.line.hkcnt = 1) ∧
    (∃ s : State, s.line.configured = true ∧ s.line.st = .offered ∧ s.line.ringing = true ∧ s.line.ringt = 1) ∧
    (∃ s : State, s.line.configured = true ∧ s.line.st = .offered ∧ s.line.ringing = true ∧ s.line.ringt = 2 ∧
      s.tx.go = false) ∧
    (∃ s : State, s.line.configured = true ∧ s.line.st = .releasing ∧
      (s.line.ticked s.par).now = s.line.guardUntil) ∧
    (∃ (s : State) (f : Config.Frame) (fs : List Config.Frame), s.line.configured = true ∧ s.env.frames = f :: fs ∧
      f.length = s.par.codec.frameSamples ∧ s.par.ok) :=
  ⟨⟨b5.updLine fun l => { l with hkcnt := 1 }, rfl, rfl, rfl, calmRx rfl rfl, calmMwi rfl, rfl⟩,
    ⟨ringIn.updLine fun l => { l with ringt := 1 }, rfl, rfl, rfl, rfl⟩,
    ⟨ringIn.updLine fun l => { l with ringt := 2 }, rfl, rfl, rfl, rfl, rfl⟩,
    ⟨releasing.updLine fun l => { l with now := 80 }, rfl, rfl, by decide⟩,
    { b5 with env := { b5.env with frames := [List.replicate 160 7] } }, List.replicate 160 7, [], rfl, rfl,
    by simp [b5, State.reset, State.resetOf], lawful rfl⟩

/-- `b5` with the receiver in a state, `timeout` left, of a line in `st`. -/
def receiving (rx : CidRxState) (timeout : Half) (st : CallState) : State :=
  { withCfg 1 0x0800 (withCfg 2 8 b5) with
    line := { b5.line with st := st }
    rx := { b5.rx with st := rx, timeout := timeout, settle := 1 }
    env := { b5.env with frames := [List.replicate 160 7] } }

/-- A spill of each kind that is being sent: a call-waiting alert to an established call, a Caller-ID message to a rung station,
the engine's on an Idle line; two of them with one sample more than a frame left; then each kind's last frame. -/
theorem witness_TickWord_spill :
    (∃ s : State, CountingLine s ∧ s.tx.go = true ∧ s.line.st = .offered ∧ s.line.cwrepeat = 0 ∧ CalmRx s ∧ MwiWaits s) ∧
    (∃ s : State, CountingLine s ∧ s.tx.go = false ∧ s.line.cwrepeat = 2 ∧ CalmRx s ∧ MwiWaits s) ∧
    (∃ s : State, CountingLine s ∧ s.tx.go = false ∧ s.line.cwrepeat = 1 ∧ s.banks.cw.owned = false ∧ CalmRx s ∧
      MwiWaits s) ∧
    (∃ s : State, CountingLine s ∧ s.tx.go = true ∧ s.line.st = .active ∧ s.line.cwrepeat = 500 ∧ CalmRx s ∧ MwiWaits s ∧
      0 < s.par.codec.frameSamples ∧ s.tx.rd.toNat + s.par.codec.frameSamples + 1 = s.tx.len.toNat ∧ AcceptingNext s) ∧
    (∃ s : State, CountingLine s ∧ s.tx.go = true ∧ s.line.st = .offered ∧ s.tx.kind = .cid ∧ CalmRx s ∧ MwiWaits s ∧
      0 < s.par.codec.frameSamples ∧ s.tx.rd.toNat + s.par.codec.frameSamples + 1 = s.tx.len.toNat ∧ AcceptingNext s) ∧
    (∃ s : State, CountingLine s ∧ s.tx.go = true ∧ s.line.st = .idle ∧ s.tx.kind = .mwi ∧ CalmRx s ∧ MwiWaits s ∧
      0 < s.par.codec.frameSamples ∧ s.tx.rd.toNat + s.par.codec.frameSamples < s.tx.len.toNat ∧ AcceptingNext s) ∧
    (∃ s : State, CountingLine s ∧ s.tx.go = true ∧ s.tx.kind = .cwcid ∧ s.tx.rd < s.tx.len ∧
      s.tx.len.toNat = s.tx.rd.toNat + s.par.codec.frameSamples ∧ CalmRx s ∧ CalmMwi s ∧ AcceptingNext s ∧ Accepting s ∧
      s.conf.confSusp = true) ∧
    (∃ s : State, CountingLine s ∧ s.tx.go = true ∧ s.tx.kind = .cid ∧ s.line.st = .offered ∧ s.tx.rd < s.tx.len ∧
      s.tx.len.toNat = s.tx.rd.toNat + 1 ∧ s.tx.len.toNat ≤ s.tx.rd.toNat + s.par.codec.frameSamples ∧ CalmRx s ∧
      s.mwi.st = .null ∧ s.mwi.pending = true ∧ s.line.st ≠ .idle ∧ AcceptingNext s) ∧
    (∃ s : State, s.line.configured = true ∧ s.line.st = .active ∧ s.line.hook = true ∧ s.line.cwrepeat = 1 ∧
      s.banks.cw.owned = true ∧ s.rx.st = .off ∧ s.rx.timeout = 0 ∧ CalmMwi s ∧ s.par.ok ∧ Accepting s) :=
  ⟨⟨{ ringOut with tx := sending.tx }, counting (by decide), rfl, rfl, rfl, calmRx rfl rfl, .inl ⟨rfl, .inl rfl⟩⟩,
    ⟨call78.updLine fun l => { l with cwrepeat := 2 }, counting (by decide), rfl, rfl, calmRx rfl rfl, .inl ⟨rfl, .inl rfl⟩⟩,
    ⟨call7.updLine fun l => { l with cwrepeat := 1 }, ⟨rfl, by decide, .inl (by decide), .inr (.inl rfl)⟩, rfl, rfl, rfl,
      calmRx rfl rfl, .inl ⟨rfl, .inl rfl⟩⟩,
    ⟨{ sending with
        tx := { sending.tx with kind := .cwcid, len := 161 }, line := { sending.line with cwrepeat := 500 } },
      counting (by decide), rfl, rfl, rfl, calmRx rfl rfl, .inl ⟨rfl, .inl rfl⟩, by decide, by decide, rfl⟩,
    ⟨{ ringOut with tx := { sending.tx with len := 161 } }, counting (by decide), rfl, rfl, rfl, calmRx rfl rfl,
      .inl ⟨rfl, .inl rfl⟩, by decide, by decide, rfl⟩,
    ⟨mwiSpilling, counting (by decide), rfl, rfl, rfl, calmRx rfl rfl, .inr (.inr ⟨rfl, by decide⟩), by decide, by decide,
      rfl⟩,
    ⟨{ sending with tx := { sending.tx with kind := .cwcid, rd := 240 } }, counting (by decide), rfl, rfl, by decide, by decide,
      calmRx rfl rfl, calmMwi rfl, rfl, accepting rfl, rfl⟩,
    ⟨{ ringOut with tx := { sending.tx with rd := 399 }, mwi := { ringOut.mwi with pending := true } }, counting (by decide),
      rfl, rfl, rfl, by decide, by decide, by decide, calmRx rfl rfl, rfl, rfl, by decide, rfl⟩,
    call78.updLine fun l => { l with cwrepeat := 1 }, rfl, rfl, rfl, rfl, rfl, rfl, rfl, calmMwi rfl, lawful rfl, accepting rfl⟩

theorem witness_TickWord_receiver :
    (∃ s : State, CalmLine s ∧ CalmMwi s ∧ s.rx.st = .decoding ∧ s.rx.timeout = 2) ∧
    (∃ s : State, CalmLine s ∧ CalmMwi s ∧ s.rx.st = .done ∧ resultDue s = false ∧ s.rx.timeout = 1 ∧
      s.line.st ≠ .idle) ∧
    (∃ s : State, CalmLine s ∧ CalmMwi s ∧ s.rx.timeout = 1 ∧ s.rx.st = .decoding ∧ s.line.st ≠ .idle) ∧
    (∃ s : State, CalmLine s ∧ CalmMwi s ∧ s.rx.timeout = 1 ∧ s.rx.st = .decoding ∧ s.line.st = .idle) ∧
    (∃ s : State, CalmLine s ∧ CalmMwi s ∧ s.rx.timeout = 1 ∧ s.rx.st = .done ∧ s.line.st = .idle) ∧
    (∃ s : State, CalmLine s ∧ CalmMwi s ∧ s.rx.st = .settle ∧ s.rx.timeout = 0 ∧ 1 < s.rx.settle) ∧
    (∃ s : State, CalmLine s ∧ CalmMwi s ∧ s.rx.st = .settle ∧ s.rx.timeout = 0 ∧ s.rx.settle = 1 ∧
      ticksOf s.par (cfgCidTimeoutMs s.cfg) ≠ 1) ∧
    (∃ s : State, CalmLine s ∧ CalmMwi s ∧ s.rx.st = .off ∧ s.rx.timeout = 0 ∧ hasFeature s.cfg .cidRx = true ∧ cidStartOf s.cfg = .dtmfNoAlert ∧
      s.line.st = .idle ∧ s.line.postwin = 1 ∧ s.line.inalarm = false ∧ s.par.ok) ∧
    (∃ s : State, CalmLine s ∧ CalmMwi s ∧ s.rx.st = .decoding ∧ rxDtmf s.cfg = false ∧ s.rx.timeout ≠ 1 ∧ s.par.ok ∧
      s.rx.rxlen.toNat + s.par.codec.frameSamples = s.par.spillBytes) ∧
    (∃ s : State, CalmLine s ∧ CalmMwi s ∧ s.rx.st = .decoding ∧ rxDtmf s.cfg = false ∧ s.rx.timeout ≠ 1 ∧ s.par.ok ∧
      s.par.spillBytes + 1 = s.rx.rxlen.toNat + s.par.codec.frameSamples) :=
  ⟨⟨receiving .decoding 2 .idle, calmLine (by decide) rfl, calmMwi rfl, rfl, rfl⟩,
    ⟨receiving .done 1 .active, calmLine (by decide) rfl, calmMwi rfl, rfl, rfl, rfl, by decide⟩,
    ⟨receiving .decoding 1 .offered, calmLine (by decide) rfl, calmMwi rfl, rfl, rfl, by decide⟩,
    ⟨receiving .decoding 1 .idle, calmLine (by decide) rfl, calmMwi rfl, rfl, rfl, rfl⟩,
    ⟨receiving .done 1 .idle, calmLine (by decide) rfl, calmMwi rfl, rfl, rfl, rfl⟩,
    ⟨{ b5 with rx := { b5.rx with st := .settle, settle := 25 } }, calmLine (by decide) rfl, calmMwi rfl, rfl, rfl, by decide⟩,
    ⟨receiving .settle 0 .idle, calmLine (by decide) rfl, calmMwi rfl, rfl, rfl, rfl, by decide⟩,
    ⟨(receiving .off 0 .idle).updLine fun l => { l with postwin := 1 }, calmLine (by decide) rfl,
      calmMwi rfl, rfl, rfl, rfl, rfl, rfl, rfl, rfl, lawful rfl⟩,
    ⟨{ receiving .decoding 0 .idle with cfg := b5.cfg, rx := { b5.rx with st := .decoding, rxlen := 32608 } },
      calmLine (by decide) rfl, calmMwi rfl, rfl, rfl, by decide, lawful rfl, by decide⟩,
    { receiving .decoding 0 .idle with cfg := b5.cfg, rx := { b5.rx with st := .decoding, rxlen := 32609 } },
    calmLine (by decide) rfl, calmMwi rfl, rfl, rfl, by decide, lawful rfl, by decide⟩

/-- The samples of a bit sequence. -/
def signal (bits : List Bool) : List Byte := (Config.waveforms {}).synthFsk .bell202 .mu bits

/-- The last frame of a bit sequence of `n + 160` samples. -/
def lastFrame (n : Nat) (bits : List Bool) : Config.Frame := (List.range 160).map fun j => (signal bits).getD (n + j) 0

/-- A receiver on an Idle line that has gathered the first `n` samples of it; the rest is the next frame. -/
def fed (n : Nat) (bits : List Bool) : State :=
  wr .rxacc 0 ((signal bits).take n)
    { b5 with
      rx := { b5.rx with st := .decoding, rxlen := BitVec.ofNat 16 n }
      env := { b5.env with frames := [lastFrame n bits] } }

/-- What `Obligations.TickWord` calls `decoded` there is what the bits spell (law L1 of R318). -/
theorem fed_decodes (n : Nat) (b : List Bool) (hn : n < 65536)
    (h : (Config.CodecParams.bitStart {} (b ++ List.replicate 10 true).length) = n + 160) :
    let bits := b ++ List.replicate 10 true
    let s := fed n bits
    cidDecode s.par.codec (rxStd s.cfg) (cfgLaw s.cfg) (rdList .rxacc 0 s.rx.rxlen.toNat s ++ nextFrame s) =
      cidDecodeBits {} bits := by
  have hl : (signal (b ++ List.replicate 10 true)).length = n + 160 := by rw [signal, Config.Waveforms.synth_length, h]
  have ht : ((signal (b ++ List.replicate 10 true)).take n).length = n := by rw [List.length_take, hl]; omega
  have hr : (fed n (b ++ List.replicate 10 true)).rx.rxlen.toNat = n := Nat.mod_eq_of_lt hn
  have h1 : rdList .rxacc 0 n (fed n (b ++ List.replicate 10 true)) = (signal (b ++ List.replicate 10 true)).take n := by
    have := rdList_wr .rxacc 0 ((signal (b ++ List.replicate 10 true)).take n)
      { b5 with
        rx := { b5.rx with st := .decoding, rxlen := BitVec.ofNat 16 n }
        env := { b5.env with frames := [lastFrame n (b ++ List.replicate 10 true)] } } (by rw [ht]; omega)
    rwa [ht] at this
  have h2 : nextFrame (fed n (b ++ List.replicate 10 true)) = (signal (b ++ List.replicate 10 true)).drop n := by
    rw [nextFrame_of_given (f := lastFrame n (b ++ List.replicate 10 true)) (fs := []) rfl
      (by simp [lastFrame, fed, b5, State.reset, State.resetOf])]
    refine List.ext_getElem (by rw [List.length_drop, hl]; simp [lastFrame]) fun i hi hj => ?_
    simp only [lastFrame, List.getElem_map, List.getElem_range, List.getElem_drop]
    exact List.getD_eq_getElem ..
  have h3 : rxStd (fed n (b ++ List.replicate 10 true)).cfg = .bell202 := rfl
  have h4 : cfgLaw (fed n (b ++ List.replicate 10 true)).cfg = .mu := (by decide : cfgLaw b5.cfg = .mu)
  simp only [hr, h1, h2, h3, h4, List.take_append_drop, cidDecode]
  show cidDecodeBits {} ((Config.waveforms {}).demodFsk .bell202 .mu (signal (b ++ List.replicate 10 true))) = _
  have := (Config.waveforms {}).demod_synth (by decide) .bell202 .mu (b ++ List.replicate 10 true) 0 (by decide) ⟨b, rfl⟩
  simp only [List.replicate_zero, List.append_nil] at this
  rw [signal, this]

/-- Ten marks, a start bit, and what follows it. -/
def marked (rest : List Bool) : List Bool := List.replicate 10 true ++ false :: rest

/-- The feed's three outcomes: no start bit; a byte without its stop bit; the shortest message, its type, no body and its
checksum (0x80, 0x00, 0x80). -/
theorem witness_TickWord_feed :
    (∃ s : State, CalmLine s ∧ CalmMwi s ∧ s.rx.st = .decoding ∧
      rxDtmf s.cfg = false ∧ s.rx.timeout ≠ 1 ∧ s.par.ok ∧ s.rx.rxlen.toNat + s.par.codec.frameSamples ≤ s.par.spillBytes ∧
      cidDecode s.par.codec (rxStd s.cfg) (cfgLaw s.cfg) (rdList .rxacc 0 s.rx.rxlen.toNat s ++ nextFrame s) = .more) ∧
    (∃ s : State, CalmLine s ∧ CalmMwi s ∧ s.rx.st = .decoding ∧
      rxDtmf s.cfg = false ∧ s.rx.timeout ≠ 1 ∧ s.par.ok ∧ s.rx.rxlen.toNat + s.par.codec.frameSamples ≤ s.par.spillBytes ∧
      cidDecode s.par.codec (rxStd s.cfg) (cfgLaw s.cfg) (rdList .rxacc 0 s.rx.rxlen.toNat s ++ nextFrame s) = .error) ∧
    (∃ s : State, CalmLine s ∧ CalmMwi s ∧ s.rx.st = .decoding ∧
      rxDtmf s.cfg = false ∧ s.rx.timeout ≠ 1 ∧ s.par.ok ∧ s.rx.rxlen.toNat + s.par.codec.frameSamples ≤ s.par.spillBytes ∧
      cidDecode s.par.codec (rxStd s.cfg) (cfgLaw s.cfg) (rdList .rxacc 0 s.rx.rxlen.toNat s ++ nextFrame s) = .done [] []) :=
  ⟨⟨fed 0 _, calmLine (by decide) rfl, calmMwi rfl, rfl, rfl, by decide, lawful rfl, by decide,
      (fed_decodes 0 (List.replicate 14 true) (by decide) (by decide)).trans (by decide)⟩,
    ⟨fed 160 _, calmLine (by decide) rfl, calmMwi rfl, rfl, rfl, by decide, lawful rfl, by decide,
      (fed_decodes 160 (marked (List.replicate 27 false)) (by decide) (by decide)).trans (by decide)⟩,
    fed 320 _, calmLine (by decide) rfl, calmMwi rfl, rfl, rfl, by decide, lawful rfl, by decide,
    (fed_decodes 320
      (marked (List.replicate 7 false ++ [true, true, false] ++ List.replicate 8 false ++ [true, false] ++
        List.replicate 7 false ++ List.replicate 24 true)) (by decide) (by decide)).trans (by decide)⟩

theorem witness_LrfatalWord :
    (∃ s : State, s.line.configured = true ∧ s.mwi.st.isActive = false ∧ s.line.st ≠ .idle ∧ s.line.st ≠ .releasing ∧
      Accepting s) ∧
    (∃ s : State, s.line.configured = true ∧ s.mwi.st.isActive = false ∧ (s.line.st = .idle ∨ s.line.st = .releasing) ∧
      Accepting s) ∧
    (∃ s : State, CountingLine s ∧ s.line.st ≠ .idle ∧ s.mwi.st = .null ∧ s.tx.go = true ∧ s.tx.rd < s.tx.len ∧
      0 < s.par.codec.frameSamples ∧ Refusing s) :=
  ⟨⟨call73, rfl, rfl, by decide, by decide, accepting rfl⟩, ⟨releasing, rfl, rfl, .inr rfl, accepting rfl⟩,
    refusing sending, counting (by decide), by decide, rfl, rfl, by decide, by decide, rfl⟩

/-- The configuration of P3: pattern 0 is (2000, wildcard, 500) within `range`. -/
def patternCfg (range : Half) : CfgRegs :=
  ((((State.reset.cfg.set 0x10 2000).set 0x11 0xFFFF).set 0x12 500).set 0x13 range).set 0x1C 1

/-- What `Obligations.DistinctiveRing` calls `fits`. -/
def fits (par : Config.Params) (c : CfgRegs) (gap : Vector Half 3) (p : Nat) : Prop :=
  ∀ i : Fin 3, i.val < par.nGaps → cfgDringTarget c p i.val = par.dringWildcard ∨
    ((gap[i].toNat : Int) - (cfgDringTarget c p i.val).toInt ≤ (cfgDringRange c p).toNat ∧
      (cfgDringTarget c p i.val).toInt - (gap[i].toNat : Int) ≤ (cfgDringRange c p).toNat)

/-- V135 (the range exactly) and V134 (one less). -/
theorem witness_DistinctiveRing :
    (∃ (par : Config.Params) (c : CfgRegs) (gap : Vector Half 3), ∃ p < min (slice (cfgRead c 0x1C) 0 2).toNat par.nDring,
      fits par c gap p ∧ ∀ q < p, ¬ fits par c gap q) ∧
    (∃ (par : Config.Params) (c : CfgRegs) (gap : Vector Half 3), 0 < min (slice (cfgRead c 0x1C) 0 2).toNat par.nDring ∧
      ∀ p < min (slice (cfgRead c 0x1C) 0 2).toNat par.nDring, ¬ fits par c gap p) :=
  ⟨⟨{}, patternCfg 500, #v[2500, 2500, 500], 0, by decide, by unfold fits; decide, by simp⟩,
    {}, patternCfg 499, #v[2500, 2500, 500], by decide, by unfold fits; decide⟩

/-- A line that rings and samples the cadence, `n` gaps captured, with the receiver in `st`. -/
def cadence (n : BitVec 2) (st : CidRxState) : State :=
  { ringIn with rx := { ringIn.rx with dringOn := true, ngap := n, st := st, ringcnt := 3 } }

theorem witness_DistinctiveRing_bursts :
    (∃ (s : State) (i : Instr), isRingbegin i = true ∧ s.rx.dringOn = true ∧ LineReady s ∧ s.mwi.st.isActive = false ∧
      s.line.st = .offered ∧ s.line.calldir = .inbound ∧ s.line.hook = false ∧ s.rx.ngap.toNat < 3 ∧
      s.rx.ngap.toNat + 2 = s.par.nGaps) ∧
    (∃ (s : State) (i : Instr), isRingoffhook i = true ∧ s.rx.dringOn = true ∧ LineReady s ∧ s.mwi.st.isActive = false ∧
      s.line.st = .offered ∧ s.line.calldir = .inbound ∧ s.line.hook = false ∧ s.rx.ngap.toNat < 3 ∧
      s.rx.ngap.toNat + 1 = s.par.nGaps ∧ s.rx.st = .waitDring) ∧
    (∃ (s : State) (i : Instr), isRingbegin i = true ∧ s.rx.dringOn = true ∧ LineReady s ∧ s.mwi.st.isActive = false ∧
      s.line.st = .offered ∧ s.line.calldir = .inbound ∧ s.line.hook = false ∧ s.rx.ngap.toNat < 3 ∧
      s.rx.ngap.toNat + 1 = s.par.nGaps ∧ s.rx.st = .done ∧
      s.rx.resultSent = false) ∧
    (∃ s : State, s.rx.dringOn = true ∧ s.line.configured = true ∧ s.banks.real.owned = true ∧ s.line.st = .offered ∧
      s.line.calldir = .inbound ∧ s.line.hook = false ∧ AcceptingNext s ∧ s.rx.st = .waitDring ∧ s.rx.resultSent = false) :=
  ⟨⟨cadence 1 .decoding, .hwRingbegin, rfl, rfl, ready (by decide), rfl, rfl, rfl, rfl, by decide, rfl⟩,
    ⟨cadence 2 .waitDring, .fakeRingoffhook, rfl, rfl, ready (by decide), rfl, rfl, rfl, rfl, by decide, rfl, rfl⟩,
    ⟨cadence 2 .done, .fakeRingbegin, rfl, rfl, ready (by decide), rfl, rfl, rfl, rfl, by decide, rfl, rfl, rfl⟩,
    cadence 1 .waitDring, rfl, rfl, rfl, rfl, rfl, rfl, rfl, rfl, rfl⟩

/-- An instance with a tick of 10 ms, one gap to a pattern and another wildcard: `TICK` adds 10, housekeeping comes every 100
ticks, and a pattern has one target. -/
theorem test_other_instance :
    let p : Config.Params := { tickMs := 10, nGaps := 1, dringWildcard := 0x8000 }
    (after 0xC1000000 { b5 with par := p }).line.now = 10 ∧ (State.resetOf p).line.hkcnt = 100 ∧
    dringContext p (patternCfg 500) #v[2500, 0, 0] = 0 ∧ dringContext p (patternCfg 499) #v[2500, 0, 0] = 0xFF := by decide

/-- R12 at the ages R466 speaks of (notes/assumptions/28.md): true up to 2^32 - 1 ms, and 0 again at 2^32. -/
theorem test_since_old :
    sinceAt 0x80000001 0 = 2 ^ 31 + 1 ∧ sinceAt 4 5 = 2 ^ 32 - 1 ∧ sinceAt 5 5 = 0 := by decide

/-- A byte list shorter than its length says is refused (notes/assumptions/17.md). -/
theorem test_mdmf_short : mdmfParse {} [0x80, 0x80] = .error := by decide

theorem witness_CallerIdRoundTrip :
    ∃ (p : Config.CodecParams) (num name : List Byte) (n : Nat), p.ok ∧ 10 ≤ p.postMarkBits ∧
      p.paramNumber ≠ p.paramName ∧ num.length = 16 ∧ name.length = 16 ∧ n = 159 :=
  ⟨{}, List.replicate 16 0x31, List.replicate 16 0x41, 159, by decide, by decide, by decide, rfl, rfl, rfl⟩

end Sys2Proof.Tests
end

/-! PROOFS. The words of R109 (O3).

`decode` selects by `SRC` and `CODE`, R109 by the byte `W[31:24]` that the two make up. Each source's table is said once, as
the codes it refuses; both sides are then the same bounds on two numbers. -/

section

namespace Sys2Proof

open Sys2Proof.Machine

/-! ### The opcode byte -/

/-- `W[31:24]` is `SRC` above `CODE` (R100). -/
theorem toNat_opcodeByte (w : Word) :
    (slice w 24 8).toNat = 64 * (srcOf w).toNat + (codeOf w).toNat := by
  simp only [slice, srcOf, codeOf, BitVec.extractLsb'_toNat, Nat.shiftRight_eq_div_pow]
  omega

/-- The ranges of R109 as bounds on numbers. -/
theorem undefinedOpcode_iff (b : Byte) :
    undefinedOpcode b = true ↔
      0x0D ≤ b.toNat ∧ b.toNat ≤ 0x3F ∨ 0x4D ≤ b.toNat ∧ b.toNat ≤ 0x7F ∨ b.toNat = 0x80 ∨
      0x87 ≤ b.toNat ∧ b.toNat ≤ 0x8F ∨ 0x99 ≤ b.toNat ∧ b.toNat ≤ 0x9F ∨ 0xA8 ≤ b.toNat ∧ b.toNat ≤ 0xBF ∨
      b.toNat = 0xC0 ∨ 0xC3 ≤ b.toNat := by
  simp [undefinedOpcode, BitVec.le_def, ← BitVec.toNat_inj, or_assoc]

/-! ### What each source's table refuses (R103 to R105)

Only the last row of a table refuses; it is reached by the codes of no row above it. -/

theorem decodeHw_error_iff (w : Word) : (∃ e, decodeHw w = .error e) ↔ 0x0D ≤ (codeOf w).toNat := by
  unfold decodeHw
  split
  case h_14 => simp only [imp_false, Except.error.injEq, exists_eq', true_iff] at *; omega
  all_goals simp only [reduceCtorEq, exists_false, false_iff]; omega

theorem decodeFake_error_iff (w : Word) : (∃ e, decodeFake w = .error e) ↔ 0x0D ≤ (codeOf w).toNat := by
  unfold decodeFake
  split
  case h_14 => simp only [imp_false, Except.error.injEq, exists_eq', true_iff] at *; omega
  all_goals simp only [reduceCtorEq, exists_false, false_iff]; omega

theorem decodeHost_error_iff (w : Word) :
    (∃ e, decodeHost w = .error e) ↔
      (codeOf w).toNat = 0 ∨ 0x07 ≤ (codeOf w).toNat ∧ (codeOf w).toNat ≤ 0x0F ∨
      0x19 ≤ (codeOf w).toNat ∧ (codeOf w).toNat ≤ 0x1F ∨ 0x28 ≤ (codeOf w).toNat := by
  unfold decodeHost
  split
  case h_24 => simp only [imp_false, Except.error.injEq, exists_eq', true_iff] at *; omega
  all_goals simp only [reduceCtorEq, exists_false, false_iff]; omega

theorem decodeTime_error_iff (w : Word) :
    (∃ e, decodeTime w = .error e) ↔ (codeOf w).toNat = 0 ∨ 0x03 ≤ (codeOf w).toNat := by
  unfold decodeTime
  split
  case h_3 => simp only [imp_false, Except.error.injEq, exists_eq', true_iff] at *; omega
  all_goals simp only [reduceCtorEq, exists_false, false_iff]; omega

/-- R109: the codes that `decode` refuses, source by source, are the ranges of `undefinedOpcode`. -/
theorem undefinedOpcode_iff_decode_error (w : Word) :
    undefinedOpcode (slice w 24 8) = true ↔ ∃ e, decode w = .error e := by
  have hcode := (codeOf w).isLt
  have hsrc := (srcOf w).isLt
  rw [undefinedOpcode_iff, toNat_opcodeByte]
  unfold decode
  split
  case h_1 => rw [decodeHw_error_iff]; omega
  case h_2 => rw [decodeFake_error_iff]; omega
  case h_3 => rw [decodeHost_error_iff]; omega
  case h_4 => simp only [imp_false] at *; rw [decodeTime_error_iff]; omega

/-! ### The step on such a word -/

namespace Machine

theorem runWord_of_decode_error {w : Word} {e : DecodeError} (h : decode w = .error e) (s : State) :
    runWord w s = .next (raise .badEvent s) := by
  simp [runWord, h]

theorem step_of_events_cons {s : State} {w : Word} {rest : List Word} (h : s.env.events = w :: rest) :
    step s = runWord w { s with env := { s.env with events := rest } } := by
  simp [step, fetch_eq h]

/-- R134: `NONE` does nothing. -/
theorem noneEvent_configured {s : State} (h : s.line.configured = true) : noneEvent s = s := by
  simp [noneEvent, h]

end Machine

/-- Settles O3: both directions from the tables of the four sources, and the step from `fetch_eq`. -/
theorem undefinedOpcodes : Obligations.UndefinedOpcodes := by
  refine ⟨fun w => ⟨undefinedOpcode_iff_decode_error w, fun s rest hq hw => ?_⟩, rfl,
    fun s hs => congrArg Host.Outcome.next (noneEvent_configured hs)⟩
  obtain ⟨e, he⟩ := (undefinedOpcode_iff_decode_error w).mp hw
  rw [step_of_events_cons hq, runWord_of_decode_error he]

end Sys2Proof

end

/-! PROOFS. The wink on a trunk and on a radio line, and `DIALCOMPLETE` (O30).

A command to Real's resource whose answer is given is the word, the answer taken, and the continuation it selects;
each branch of R148, R149 and R153 is then one equation about the body of its rule, and the two sources share that body
(R135). -/

section

namespace Sys2Proof.Machine

/-! ### Commands whose answer is given -/

theorem nextAnswer_of_head? {s : State} {a : Config.Answer} (h : s.env.answers.head? = some a) : nextAnswer s = a := by
  obtain ⟨rest, hs⟩ := List.head?_eq_some_iff.mp h
  simp only [nextAnswer, hs]

/-- With an answer given, asking draws no free one. -/
theorem asked_eq_spoke {s : State} {a : Config.Answer} (h : s.env.answers.head? = some a) (w : ActionWord) :
    asked w s = spoke w s := by
  obtain ⟨rest, hs⟩ := List.head?_eq_some_iff.mp h
  simp [asked, drawAnswer, emit_eq, spoke, State.updEnv, hs]

theorem lrRealCase_of_acceptingNext {s : State} (h : AcceptingNext s) (c : LrCmd) (ok notOk : State → State) :
    lrRealCase c ok notOk s = ok (spoke (lrWord (lineId s) (realH s) c) s) := by
  rw [lrRealCase, lrCase_eq, nextAnswer_of_head? h, asked_eq_spoke h]

theorem lrRealCase_of_refusing {s : State} (h : Refusing s) (c : LrCmd) (ok notOk : State → State) :
    lrRealCase c ok notOk s = notOk (spoke (lrWord (lineId s) (realH s) c) s) := by
  rw [lrRealCase, lrCase_eq, nextAnswer_of_head? h, asked_eq_spoke h]

/-! ### Bits pended for the owner of the call -/

/-- What `pendReal` does: it sets one bit of Real's `PEND`, and nothing else. -/
theorem pendReal_eq (p : PendBit) (s : State) :
    pendReal p s = { s with
      banks := { s.banks with real := { s.banks.real with pend := s.banks.real.pend ||| p.mask } } } := rfl

/-! ### `WINKFLASH` on a trunk and on a radio line (R147 to R149) -/

theorem exec_winkflash_of_lineReady {s : State} (h : LineReady s) {i : Instr}
    (hi : i = .hwWinkflash ∨ i = .fakeWinkflash) : exec i s = .next (winkflash s) := by
  obtain rfl | rfl := hi <;> exact congrArg Host.Outcome.next (lineEntry_ready h)

theorem winkflash_trunk {s : State} (h : familyOf s.cfg = .trunk) : winkflash s = trunkWink s := by
  simp only [winkflash, h]

theorem winkflash_radio {s : State} (h : familyOf s.cfg = .radio) : winkflash s = s := by
  simp only [winkflash, h]

/-- A wink with a dial pending asks the Line Resource to dial. -/
theorem trunkWink_pending {s : State} (h : s.line.dialPending = true) :
    trunkWink s = lrRealCase (.dial s.line.diallen)
      (State.updLine fun l => { l with dialPending := false, dialing := true }) (raise .lrCtrl) s := by
  simp only [trunkWink, h, if_true]

/-- A wink in an established call whose dial is done is the owner's. -/
theorem trunkWink_established {s : State} (hp : s.line.dialPending = false) (ho : s.banks.real.owned = true)
    (hc : s.line.st.isCall = true) : trunkWink s = pendReal .needFlash s := by
  simp [trunkWink, hp, ho, hc]

theorem trunkWink_unexpected {s : State} (hp : s.line.dialPending = false)
    (h : s.banks.real.owned = false ∨ s.line.st.isCall = false) : trunkWink s = raise .unexpected s := by
  obtain ho | hc := h
  · simp [trunkWink, hp, ho]
  · simp [trunkWink, hp, hc]

/-! ### `DIALCOMPLETE` (R153) -/

theorem exec_dialcomplete_of_lineReady {s : State} (h : LineReady s) {i : Instr}
    (hi : i = .hwDialcomplete ∨ i = .fakeDialcomplete) : exec i s = .next (dialcompleteBody s) := by
  obtain rfl | rfl := hi <;> exact congrArg Host.Outcome.next (lineEntry_ready h)

theorem dialcompleteBody_notDialing {s : State} (h : s.line.dialing = false) :
    dialcompleteBody s = raise .unexpected s := by
  simp [dialcompleteBody, h]

theorem dialcompleteBody_eq_onlyIf {s : State} (h : s.line.dialing = true) :
    dialcompleteBody s = onlyIf (fun s => s.line.st == .offered && s.line.calldir == .outDial) (pendReal .needRinging)
      (s.updLine fun l => { l with dialing := false }) := by
  simp [dialcompleteBody, h]

/-- The end of the dialling pends `NEED_RINGING` on a dialled call being set up, and no other bit. -/
theorem dialcompleteBody_dialing {s : State} (h : s.line.dialing = true) :
    dialcompleteBody s =
      { s with
        line := { s.line with dialing := false }
        banks := if s.line.st = .offered ∧ s.line.calldir = .outDial then
            { s.banks with real := { s.banks.real with pend := s.banks.real.pend ||| PendBit.needRinging.mask } }
          else s.banks } := by
  by_cases hd : s.line.st = .offered ∧ s.line.calldir = .outDial
  · rw [dialcompleteBody_eq_onlyIf h, onlyIf_true (by simpa using hd), if_pos hd, pendReal_eq]
    rfl
  · rw [dialcompleteBody_eq_onlyIf h, onlyIf_false (by simpa using hd), if_neg hd]
    rfl

end Sys2Proof.Machine

namespace Sys2Proof

open Sys2Proof.Machine

/-- Settles O30: the branches of R148, R149 and R153, each an equation of its rule's body. -/
theorem winkAndDialcomplete : Obligations.WinkAndDialcomplete := by
  intro s i hready
  refine ⟨fun hi => ?wink, fun hi => ?dialcomplete⟩
  case wink =>
    rw [exec_winkflash_of_lineReady hready hi]
    refine ⟨fun hf hp ha => ?accepted, fun hf hp hr => ?refused, fun hf hp ho hc => ?established,
      fun hf hp hn => ?unexpected, fun hf => ?radio⟩
    case accepted => rw [winkflash_trunk hf, trunkWink_pending hp, lrRealCase_of_acceptingNext ha]; rfl
    case refused => rw [winkflash_trunk hf, trunkWink_pending hp, lrRealCase_of_refusing hr]; rfl
    case established => rw [winkflash_trunk hf, trunkWink_established hp ho hc, pendReal_eq]
    case unexpected => rw [winkflash_trunk hf, trunkWink_unexpected hp hn]
    case radio => rw [winkflash_radio hf]
  case dialcomplete =>
    rw [exec_dialcomplete_of_lineReady hready hi]
    exact ⟨fun hd => congrArg _ (dialcompleteBody_dialing hd), fun hd => congrArg _ (dialcompleteBody_notDialing hd)⟩

end Sys2Proof

end

/-! PROOFS. `ALLOC` (O40).

R191 takes the least handle that no allocated bank has. There is one (R192): the leg being allocated is free, so the other
two banks use at most two of the three handles. -/

section

namespace Sys2Proof.Machine

/-! ### Any command whose answer is given -/

theorem lrCase_of_acceptingNext {s : State} (h : AcceptingNext s) (line : Byte) (f : BitVec 4) (c : LrCmd)
    (ok notOk : State → State) : lrCase line f c ok notOk s = ok (spoke (lrWord line f c) s) := by
  rw [lrCase_eq, nextAnswer_of_head? h, asked_eq_spoke h]

theorem lrCase_of_refusing {s : State} (h : Refusing s) (line : Byte) (f : BitVec 4) (c : LrCmd)
    (ok notOk : State → State) : lrCase line f c ok notOk s = notOk (spoke (lrWord line f c) s) := by
  rw [lrCase_eq, nextAnswer_of_head? h, asked_eq_spoke h]

/-! ### The least free handle (R191, R192) -/

theorem handleUsed_iff {h : Handle} {s : State} :
    handleUsed h s = true ↔ ∃ y : Leg, (s.bank y).alloc = true ∧ (s.bank y).res = h := by
  simp only [handleUsed, Bool.or_eq_true, Bool.and_eq_true, beq_iff_eq]
  constructor
  · rintro ((hr | hcw) | htw)
    exacts [⟨.r, hr⟩, ⟨.cw, hcw⟩, ⟨.tw, htw⟩]
  · rintro ⟨_ | _ | _, hy⟩
    exacts [.inl (.inl hy), .inl (.inr hy), .inr hy]

/-- What `freeHandle` answers: the first handle not in use, and the last one where it does not look. -/
theorem freeHandle_cases (s : State) :
    handleUsed 0 s = false ∧ freeHandle s = 0 ∨
    handleUsed 0 s = true ∧ handleUsed 1 s = false ∧ freeHandle s = 1 ∨
    handleUsed 0 s = true ∧ handleUsed 1 s = true ∧ freeHandle s = 2 := by
  cases h0 : handleUsed 0 s <;> cases h1 : handleUsed 1 s <;> simp [freeHandle, h0, h1]

theorem Handle.eq_of_lt_two {k : Handle} : k < 2 → k = 0 ∨ k = 1 := by
  revert k
  decide

theorem handleUsed_of_lt_freeHandle {k : Handle} {s : State} (hk : k < freeHandle s) : handleUsed k s = true := by
  obtain ⟨_, hf⟩ | ⟨h0, _, hf⟩ | ⟨h0, h1, hf⟩ := freeHandle_cases s <;> rw [hf] at hk
  · exact absurd hk (Fin.not_lt_zero k)
  · rwa [Fin.lt_one_iff k |>.mp hk]
  · obtain rfl | rfl := Handle.eq_of_lt_two hk
    · exact h0
    · exact h1

/-- `freeHandle` answers a handle in use only for want of a free one. -/
theorem handleUsed_of_freeHandle_used {s : State} (h : handleUsed (freeHandle s) s = true) (k : Handle) :
    handleUsed k s = true := by
  have hlast : freeHandle s = 2 := by
    obtain ⟨h0, hf⟩ | ⟨_, h1, hf⟩ | ⟨_, _, hf⟩ := freeHandle_cases s
    · simp [hf, h0] at h
    · simp [hf, h1] at h
    · exact hf
  obtain hk | rfl : k < freeHandle s ∨ k = freeHandle s := lt_or_eq_of_le (hlast ▸ Fin.le_last k)
  · exact handleUsed_of_lt_freeHandle hk
  · exact h

/-- For each leg, there are two others. -/
theorem Leg.exists_others (x : Leg) : ∃ y z : Leg, ∀ w, w = x ∨ w = y ∨ w = z := by
  cases x
  case r => exact ⟨.cw, .tw, by rintro (_ | _ | _) <;> decide⟩
  case cw => exact ⟨.r, .tw, by rintro (_ | _ | _) <;> decide⟩
  case tw => exact ⟨.r, .cw, by rintro (_ | _ | _) <;> decide⟩

/-- With a leg free, the handles in use are among those of two banks. -/
theorem handleUsed_among_two {x : Leg} {s : State} (hx : (s.bank x).alloc = false) :
    ∃ a b : Handle, ∀ h, handleUsed h s = true → h = a ∨ h = b := by
  obtain ⟨y, z, hyz⟩ := x.exists_others
  refine ⟨(s.bank y).res, (s.bank z).res, fun h hu => ?_⟩
  obtain ⟨w, hw, rfl⟩ := handleUsed_iff.mp hu
  obtain rfl | rfl | rfl := hyz w
  · simp [hx] at hw
  · exact .inl rfl
  · exact .inr rfl

theorem Handle.exists_ne_two (a b : Handle) : ∃ h : Handle, h ≠ a ∧ h ≠ b := by
  revert a b
  decide

theorem freeHandle_unused {x : Leg} {s : State} (hx : (s.bank x).alloc = false) : ¬ handleUsed (freeHandle s) s = true := by
  intro hu
  obtain ⟨a, b, hab⟩ := handleUsed_among_two hx
  obtain ⟨k, hka, hkb⟩ := Handle.exists_ne_two a b
  exact (hab k (handleUsed_of_freeHandle_used hu k)).elim hka hkb

/-! ### `ALLOC_LEG` and `ALLOC` (R190, R191) -/

theorem allocLeg_inUse {x : Leg} {s : State} (h : (s.bank x).alloc = true) (ok conflict failed : State → State) :
    allocLeg x ok conflict failed s = conflict s := by
  simp [allocLeg, h]

/-- A free leg's allocation is one `OPEN`, whose answer decides. -/
theorem allocLeg_free {x : Leg} {s : State} (h : (s.bank x).alloc = false) (ok conflict failed : State → State) :
    allocLeg x ok conflict failed s =
      lrCase (lineId s) (handleField (freeHandle s)) .openLine
        (fun t => ok (t.updBank x fun _ => freshBank (freeHandle s))) failed s := by
  simp [allocLeg, h]

theorem withLeg_of_legOf {leg : BitVec 2} {x : Leg} (h : legOf leg = some x) (body : Leg → State → State) (s : State) :
    withLeg leg body s = body x s := by
  simp [withLeg, h]

theorem withLeg_three (body : Leg → State → State) (s : State) : withLeg 3 body s = raise .badArg s := rfl

theorem exec_hostAlloc_of_configured {s : State} (h : s.line.configured = true) (leg : BitVec 2) :
    exec (.hostAlloc leg) s =
      .next (withLeg leg (fun x => allocLeg x id (raise .conflict) (raise .lrOpen)) s) :=
  congrArg Host.Outcome.next (hostEntry_configured h)

end Sys2Proof.Machine

namespace Sys2Proof

open Sys2Proof.Machine

/-- Settles O40: the handle is `freeHandle`, the least one not in use, and each branch is an equation of `allocLeg`. -/
theorem allocWord : Obligations.AllocWord := by
  intro s leg x hconf hleg
  simp only [exec_hostAlloc_of_configured hconf, withLeg_of_legOf hleg]
  refine ⟨congrArg _ (withLeg_three _ s), fun huse => congrArg _ (allocLeg_inUse huse _ _ _), fun hfree =>
    ⟨freeHandle s, fun y hy hres => freeHandle_unused hfree (handleUsed_iff.mpr ⟨y, hy, hres⟩),
      fun k hk => handleUsed_iff.mp (handleUsed_of_lt_freeHandle hk), fun hacc => ?accepted, fun href => ?refused⟩⟩
  case accepted => rw [allocLeg_free hfree, lrCase_of_acceptingNext hacc]; rfl
  case refused => rw [allocLeg_free hfree, lrCase_of_refusing href]

end Sys2Proof

end

/-! PROOFS. Reconciling twice (O45).

A pass visits seven members in turn: the three legs, then the four slave entries. Visiting one emits at most one command,
and of all that decides which commands are due it changes that member's shadow alone, and only if the answer is `OK`. So
the commands a pass emits are those due when it begins, and those still due when it ends are the refused ones. -/

section

namespace Sys2Proof.Machine

open Sys2Proof.Config (Answer)

/-! ### The commands among the words -/

/-- `CLASS` is the top field of the word (R106); the five fields below it are cut off one by one. -/
theorem wordClass_actionWord (cls : BitVec 4) (code line : Byte) (h : BitVec 4) (arg : BitVec 32) :
    wordClass (actionWord cls code line h arg) = cls := by
  rw [wordClass, slice, actionWord]
  iterate 5 rw [BitVec.extractLsb'_append_eq_of_le (by decide)]
  exact BitVec.extractLsb'_eq_self

@[simp] theorem isCommand_lrWord (line : Byte) (h : BitVec 4) (c : LrCmd) : isCommand (lrWord line h c) = true := by
  simp [isCommand, lrWord, wordClass_actionWord]

@[simp] theorem isCommand_indWord (line : Byte) (h : BitVec 4) (i : Ind) : isCommand (indWord line h i) = false := by
  simp [isCommand, indWord, wordClass_actionWord]

/-- From `s` to `t` the commands emitted are `cs`, in this order. -/
def Commanded (cs : List ActionWord) (s t : State) : Prop :=
  ∃ ws, t.env.out = s.env.out ++ ws ∧ ws.filter isCommand = cs

theorem Commanded.refl (s : State) : Commanded [] s s := ⟨[], by simp, rfl⟩

theorem Commanded.trans {cs ds : List ActionWord} {s t u : State} (h : Commanded cs s t) (k : Commanded ds t u) :
    Commanded (cs ++ ds) s u := by
  obtain ⟨ws, hout, rfl⟩ := h
  obtain ⟨vs, kout, rfl⟩ := k
  exact ⟨ws ++ vs, by rw [kout, hout, List.append_assoc], List.filter_append ..⟩

theorem Commanded.newWords {cs : List ActionWord} {s t : State} (h : Commanded cs s t) :
    (newWords s t).filter isCommand = cs := by
  obtain ⟨ws, hout, rfl⟩ := h
  rw [Machine.newWords, hout, List.drop_left]

theorem asked_commanded {w : ActionWord} (h : isCommand w = true) (s : State) : Commanded [w] s (asked w s) :=
  ⟨[w], asked_out w s, by simp [h]⟩

theorem raise_commanded (e : ErrCode) (s : State) : Commanded [] s (raise e s) :=
  ⟨[indWord (lineId s) hAny (.error e)], rfl, by simp⟩

/-- The commands of `cs` whose answer in `as` is not `OK`, the answers being given in the order of the commands. -/
def refusedOf (cs : List ActionWord) (as : List Answer) : List ActionWord :=
  ((cs.zip as).filter fun c => c.2 == .notOk).map Prod.fst

theorem failedCommands_eq (s t : State) :
    failedCommands s t = refusedOf ((newWords s t).filter isCommand) s.env.answers := rfl

theorem refusedOf_cons_ok (c : ActionWord) (cs : List ActionWord) (as : List Answer) :
    refusedOf (c :: cs) (.ok :: as) = refusedOf cs as := rfl

theorem refusedOf_cons_notOk (c : ActionWord) (cs : List ActionWord) (as : List Answer) :
    refusedOf (c :: cs) (.notOk :: as) = c :: refusedOf cs as := rfl

/-! ### What the frame of a pass fixes

`PassFrame` keeps the banks and the conference registers up to what a pass writes; none of it is read by what a leg or a
slave desires (R220). -/

/-- A slave entry without its shadow is read from the conference registers without theirs. -/
theorem slaveAt_logical (i : Nat) (s : State) :
    { slaveAt i s with cur := descNone } = s.conf.logical.slaves[i]?.getD Slave.empty := by
  simp only [slaveAt, ConfRegs.logical, Vector.getElem?_map]
  cases s.conf.slaves[i]? <;> rfl

section Frame

variable {s t : State}

theorem PassFrame.alloc (h : PassFrame s t) (x : Leg) : (t.bank x).alloc = (s.bank x).alloc :=
  (congrArg Bank.alloc (h.banks x) :)

theorem PassFrame.in3way (h : PassFrame s t) (x : Leg) : (t.bank x).in3way = (s.bank x).in3way :=
  (congrArg Bank.in3way (h.banks x) :)

theorem PassFrame.legH (h : PassFrame s t) (x : Leg) : legH x t = legH x s :=
  (congrArg (fun b : Bank => handleField b.res) (h.banks x) :)

theorem PassFrame.nslaves (h : PassFrame s t) : t.conf.nslaves = s.conf.nslaves := (congrArg ConfRegs.nslaves h.conf :)

theorem PassFrame.slaveAt (h : PassFrame s t) (i : Nat) :
    { slaveAt i t with cur := descNone } = { slaveAt i s with cur := descNone } := by
  rw [slaveAt_logical, slaveAt_logical, h.conf]

theorem PassFrame.slaveId (h : PassFrame s t) (i : Nat) : (Machine.slaveAt i t).id = (Machine.slaveAt i s).id :=
  (congrArg Slave.id (h.slaveAt i) :)

theorem PassFrame.slaveLaw (h : PassFrame s t) (i : Nat) : (Machine.slaveAt i t).law = (Machine.slaveAt i s).law :=
  (congrArg Slave.law (h.slaveAt i) :)

theorem PassFrame.lineId (h : PassFrame s t) : lineId t = lineId s := congrArg cfgLineId h.cfg

theorem PassFrame.legIn3way (h : PassFrame s t) (x : Leg) : legIn3way x t = legIn3way x s := by
  simp only [Machine.legIn3way, h.alloc, h.in3way]

theorem PassFrame.any3 (h : PassFrame s t) : any3 t = any3 s := by
  simp only [Machine.any3, h.legIn3way]

theorem PassFrame.isNative (h : PassFrame s t) : isNative t = isNative s := by
  simp only [Machine.isNative, h.any3, h.nslaves, h.slaveLaw, h.cfg]

theorem PassFrame.isOwn (h : PassFrame s t) : isOwn t = isOwn s := by
  have hin : t.conf.inconf = s.conf.inconf := (congrArg ConfRegs.inconf h.conf :)
  simp only [Machine.isOwn, h.any3, h.nslaves, hin]

theorem PassFrame.isNeeded (h : PassFrame s t) : isNeeded t = isNeeded s := by
  have hm : t.conf.masterV = s.conf.masterV := (congrArg ConfRegs.masterV h.conf :)
  simp only [Machine.isNeeded, h.isOwn, hm]

theorem PassFrame.desiredReal (h : PassFrame s t) : desiredReal t = desiredReal s := by
  have hsusp : t.conf.confSusp = s.conf.confSusp := (congrArg ConfRegs.confSusp h.conf :)
  have hm : t.conf.masterV = s.conf.masterV := (congrArg ConfRegs.masterV h.conf :)
  have hid : t.conf.masterId = s.conf.masterId := (congrArg ConfRegs.masterId h.conf :)
  have hnat : t.conf.masterNative = s.conf.masterNative := (congrArg ConfRegs.masterNative h.conf :)
  have hnoV : t.conf.masterConfnoV = s.conf.masterConfnoV := (congrArg ConfRegs.masterConfnoV h.conf :)
  have hno : t.conf.masterConfno = s.conf.masterConfno := (congrArg ConfRegs.masterConfno h.conf :)
  simp only [Machine.desiredReal, desiredRealOwn, ownSlot, hsusp, hm, hid, hnat, hnoV, hno, h.isNative, h.isOwn, h.lineId,
    h.slaveId]

theorem PassFrame.desiredLeg (h : PassFrame s t) (x : Leg) : desiredLeg x t = desiredLeg x s := by
  cases x
  case r => exact h.desiredReal
  all_goals simp only [Machine.desiredLeg, desiredOther, ownSlot, h.isNative, h.isOwn, h.lineId, h.legIn3way]

theorem PassFrame.desiredSlave (h : PassFrame s t) : desiredSlave t = desiredSlave s := by
  simp only [Machine.desiredSlave, ownSlot, h.isNative, h.lineId]

end Frame

/-! ### The members a pass visits -/

/-- A leg of the Line, or one of its slave entries. -/
inductive Member where
  | leg (x : Leg)
  | slave (i : Fin Config.slaveSlots)

namespace Member

/-- The member is there to be reconciled: the leg is allocated, the entry in use (R222). -/
def present : Member → State → Bool
  | leg x, s => (s.bank x).alloc
  | slave i, s => i < s.conf.nslaves.toNat

/-- The membership the member should have: `D[x]`, `DS[i]`. -/
def desired : Member → State → Descriptor
  | leg x, s => desiredLeg x s
  | slave _, s => desiredSlave s

/-- The membership it has been given: `SUB[x].CUR`, `SLAVE[i].CUR`. -/
def shadow : Member → State → Descriptor
  | leg x, s => (s.bank x).cur
  | slave i, s => (slaveAt i s).cur

def setShadow : Member → Descriptor → State → State
  | leg x, d => State.updBank x fun b => { b with cur := d }
  | slave i, d => setSlaveCur i d

/-- The command that gives the member its desired membership. -/
def command : Member → State → ActionWord
  | leg x, s => lrWord (lineId s) (legH x s) (.setConf (desiredLeg x s))
  | slave i, s => lrWord (slaveAt i s).id hAny (.setConf (desiredSlave s))

/-- A visit emits the member's command. -/
def due (m : Member) (s : State) : Bool := m.present s && m.desired s != m.shadow s

/-- The visit of one member in a pass. -/
def reconcile : Member → State → State
  | leg x => reconcileLeg x
  | slave i => reconcileSlave i

variable {m n : Member} {s t : State}

/-! ### What a visit reads -/

theorem present_of_passFrame (h : PassFrame s t) (m : Member) : m.present t = m.present s := by
  cases m
  case leg x => exact h.alloc x
  case slave i => simp only [present, h.nslaves]

theorem desired_of_passFrame (h : PassFrame s t) (m : Member) : m.desired t = m.desired s := by
  cases m
  case leg x => exact h.desiredLeg x
  case slave i => exact h.desiredSlave

theorem command_of_passFrame (h : PassFrame s t) (m : Member) : m.command t = m.command s := by
  cases m
  case leg x => simp only [command, h.lineId, h.legH, h.desiredLeg]
  case slave i => simp only [command, h.slaveId, h.desiredSlave]

/-- Within the frame of a pass, only the member's own shadow decides whether its command is due. -/
theorem due_of_passFrame (h : PassFrame s t) (m : Member) : m.due t = (m.present s && m.desired s != m.shadow t) := by
  simp only [due, present_of_passFrame h, desired_of_passFrame h]

theorem due_congr (h : PassFrame s t) (hs : m.shadow t = m.shadow s) : m.due t = m.due s := by
  rw [due_of_passFrame h, hs, due]

theorem isCommand_command (m : Member) (s : State) : isCommand (m.command s) = true := by
  cases m <;> exact isCommand_lrWord _ _ _

/-! ### Writing a shadow -/

@[simp] theorem setShadow_env (m : Member) (d : Descriptor) (s : State) : (m.setShadow d s).env = s.env := by
  cases m <;> rfl

theorem setShadow_confno (m : Member) (d : Descriptor) (s : State) :
    (m.setShadow d s).conf.confnoV = s.conf.confnoV ∧ (m.setShadow d s).conf.confno = s.conf.confno := by
  cases m <;> exact ⟨rfl, rfl⟩

theorem slaveAt_setSlaveCur (i j : Fin Config.slaveSlots) (d : Descriptor) (s : State) :
    slaveAt j (setSlaveCur i d s) = if i = j then { slaveAt i s with cur := d } else slaveAt j s := by
  simp only [slaveAt, setSlaveCur, State.updConf_conf, Vector.getElem?_setIfInBounds, Fin.ext_iff]
  split <;> simp

theorem shadow_setShadow_same (m : Member) (d : Descriptor) (s : State) : m.shadow (m.setShadow d s) = d := by
  cases m
  case leg x => simp [shadow, setShadow]
  case slave i => simp [shadow, setShadow, slaveAt_setSlaveCur]

theorem shadow_setShadow_other (h : n ≠ m) (d : Descriptor) (s : State) : n.shadow (m.setShadow d s) = n.shadow s := by
  cases m <;> cases n
  case leg.leg x y =>
    have hxy : y ≠ x := fun e => h (e ▸ rfl)
    simp only [shadow, setShadow, State.bank_updBank_other _ hxy]
  case slave.slave i j =>
    have hij : i ≠ j := fun e => h (e ▸ rfl)
    simp only [shadow, setShadow, slaveAt_setSlaveCur, if_neg hij]
  all_goals rfl

theorem shadow_of_talk (h : Talk s t) (m : Member) : m.shadow t = m.shadow s := by
  cases m
  case leg x => simp only [shadow, h.bank]
  case slave i => simp only [shadow, slaveAt, h.conf]

/-! ### What a visit does (R222, R226) -/

/-- No command is due and nothing happens; or the command is emitted, and its answer decides between the shadow and
`E_LR_CONF`. -/
theorem reconcile_cases (m : Member) (s : State) :
    m.due s = false ∧ m.reconcile s = s ∨
    m.due s = true ∧ nextAnswer s = .ok ∧ m.reconcile s = m.setShadow (m.desired s) (asked (m.command s) s) ∨
    m.due s = true ∧ nextAnswer s = .notOk ∧ m.reconcile s = raise .lrConf (asked (m.command s) s) := by
  cases hd : m.due s
  case false =>
    refine .inl ⟨rfl, ?_⟩
    cases m <;> exact if_neg (Bool.eq_false_iff.mp hd)
  case true =>
    have hrec : m.reconcile s = match nextAnswer s with
        | .ok => m.setShadow (m.desired s) (asked (m.command s) s)
        | .notOk => raise .lrConf (asked (m.command s) s) := by
      cases m <;> exact (if_pos hd).trans (lrCase_eq ..)
    cases ha : nextAnswer s <;> simp [hrec, ha]

theorem reconcile_frame (m : Member) (s : State) : PassFrame s (m.reconcile s) := by
  cases m
  case leg x => exact reconcileLeg_frame x s
  case slave i => exact reconcileSlave_frame i s

theorem reconcile_confno (m : Member) (s : State) :
    (m.reconcile s).conf.confnoV = s.conf.confnoV ∧ (m.reconcile s).conf.confno = s.conf.confno := by
  have htalk := asked_talk (m.command s) s
  obtain ⟨-, h⟩ | ⟨-, -, h⟩ | ⟨-, -, h⟩ := m.reconcile_cases s <;> rw [h]
  · exact ⟨rfl, rfl⟩
  · rw [← htalk.conf]; exact setShadow_confno m _ _
  · rw [(htalk.trans (raise_talk _ _)).conf]; exact ⟨rfl, rfl⟩

/-- A visit leaves the other members' shadows. -/
theorem shadow_reconcile_other (h : n ≠ m) (s : State) : n.shadow (m.reconcile s) = n.shadow s := by
  have htalk := asked_talk (m.command s) s
  obtain ⟨-, hr⟩ | ⟨-, -, hr⟩ | ⟨-, -, hr⟩ := m.reconcile_cases s <;> rw [hr]
  · rw [shadow_setShadow_other h, shadow_of_talk htalk]
  · exact shadow_of_talk (htalk.trans (raise_talk _ _)) n

theorem due_reconcile_other (h : n ≠ m) (s : State) : n.due (m.reconcile s) = n.due s :=
  due_congr (m.reconcile_frame s) (shadow_reconcile_other h s)

theorem reconcile_of_not_due (h : m.due s = false) : m.reconcile s = s := by
  obtain ⟨-, hr⟩ | ⟨hd, -⟩ | ⟨hd, -⟩ := m.reconcile_cases s
  · exact hr
  all_goals simp [h] at hd

/-- After a visit the command is still due exactly if it was refused. -/
theorem due_reconcile_same (h : m.due s = true) : m.due (m.reconcile s) = (nextAnswer s == .notOk) := by
  have hframe := m.reconcile_frame s
  have htalk := asked_talk (m.command s) s
  obtain ⟨hd, -⟩ | ⟨-, ha, hr⟩ | ⟨-, ha, hr⟩ := m.reconcile_cases s
  · simp [h] at hd
  · rw [due_of_passFrame hframe, hr, shadow_setShadow_same, ha]
    simp
  · have hshadow : m.shadow (m.reconcile s) = m.shadow s := hr ▸ shadow_of_talk (htalk.trans (raise_talk _ _)) m
    rw [due_congr hframe hshadow, h, ha]
    rfl

theorem reconcile_commanded (h : m.due s = true) : Commanded [m.command s] s (m.reconcile s) := by
  have hasked := asked_commanded (isCommand_command m s) s
  obtain ⟨hd, -⟩ | ⟨-, -, hr⟩ | ⟨-, -, hr⟩ := m.reconcile_cases s
  · simp [h] at hd
  · obtain ⟨ws, hout, hws⟩ := hasked
    exact ⟨ws, by rw [hr, setShadow_env, hout], hws⟩
  · rw [hr]
    exact hasked.trans (raise_commanded _ _)

theorem reconcile_answers (h : m.due s = true) : (m.reconcile s).env.answers = s.env.answers.tail := by
  obtain ⟨hd, -⟩ | ⟨-, -, hr⟩ | ⟨-, -, hr⟩ := m.reconcile_cases s
  · simp [h] at hd
  · rw [hr, setShadow_env, asked_answers]
  · rw [hr, raise_eq, asked_answers]

end Member

/-! ### A row of visits -/

/-- The visits of some members, in order. -/
def reconcileAll (ms : List Member) (s : State) : State := ms.foldl (fun s m => m.reconcile s) s

@[simp] theorem reconcileAll_nil (s : State) : reconcileAll [] s = s := rfl

@[simp] theorem reconcileAll_cons (m : Member) (ms : List Member) (s : State) :
    reconcileAll (m :: ms) s = reconcileAll ms (m.reconcile s) := rfl

/-- The commands due in `s` among those of some members. -/
def dueCommands (ms : List Member) (s : State) : List ActionWord := (ms.filter (·.due s)).map (·.command s)

@[simp] theorem dueCommands_nil (s : State) : dueCommands [] s = [] := rfl

theorem dueCommands_cons_of_due {m : Member} {s : State} (h : m.due s = true) (ms : List Member) :
    dueCommands (m :: ms) s = m.command s :: dueCommands ms s := by
  simp [dueCommands, h]

theorem dueCommands_cons_of_not_due {m : Member} {s : State} (h : m.due s = false) (ms : List Member) :
    dueCommands (m :: ms) s = dueCommands ms s := by
  simp [dueCommands, h]

theorem reconcileAll_frame (ms : List Member) (s : State) : PassFrame s (reconcileAll ms s) := by
  induction ms generalizing s with
  | nil => exact .refl s
  | cons m ms ih => exact (m.reconcile_frame s).trans (ih _)

theorem reconcileAll_confno (ms : List Member) (s : State) :
    (reconcileAll ms s).conf.confnoV = s.conf.confnoV ∧ (reconcileAll ms s).conf.confno = s.conf.confno := by
  induction ms generalizing s with
  | nil => exact ⟨rfl, rfl⟩
  | cons m ms ih =>
    obtain ⟨hv, hn⟩ := m.reconcile_confno s
    rw [← hv, ← hn]
    exact ih _

theorem due_reconcileAll_of_notMem {n : Member} {ms : List Member} (h : n ∉ ms) (s : State) :
    n.due (reconcileAll ms s) = n.due s := by
  induction ms generalizing s with
  | nil => rfl
  | cons m ms ih =>
    obtain ⟨hnm, hms⟩ := List.ne_and_not_mem_of_not_mem_cons h
    rw [reconcileAll_cons, ih hms, Member.due_reconcile_other hnm]

/-- What is due among other members is the same after a visit. -/
theorem dueCommands_reconcile_of_notMem {m : Member} {ms : List Member} (h : m ∉ ms) (s : State) :
    dueCommands ms (m.reconcile s) = dueCommands ms s := by
  have hdue : ∀ n ∈ ms, n.due (m.reconcile s) = n.due s := fun n hn =>
    Member.due_reconcile_other (ne_of_mem_of_not_mem hn h) s
  simp only [dueCommands, List.filter_congr hdue, Member.command_of_passFrame (m.reconcile_frame s)]

/-- Where nothing is due, nothing happens. -/
theorem reconcileAll_of_dueCommands_nil {ms : List Member} {s : State} (h : dueCommands ms s = []) :
    reconcileAll ms s = s := by
  induction ms with
  | nil => rfl
  | cons m ms ih =>
    cases hd : m.due s
    case false =>
      rw [dueCommands_cons_of_not_due hd] at h
      rw [reconcileAll_cons, Member.reconcile_of_not_due hd, ih h]
    case true => simp [dueCommands_cons_of_due hd] at h

/-- The commands emitted are those due at the start. -/
theorem reconcileAll_commanded {ms : List Member} (hms : ms.Nodup) (s : State) :
    Commanded (dueCommands ms s) s (reconcileAll ms s) := by
  induction ms generalizing s with
  | nil => exact .refl s
  | cons m ms ih =>
    obtain ⟨hm, hms⟩ := List.nodup_cons.mp hms
    have hrest := ih hms (m.reconcile s)
    rw [dueCommands_reconcile_of_notMem hm] at hrest
    cases hd : m.due s
    case false =>
      rw [Member.reconcile_of_not_due hd] at hrest
      rwa [dueCommands_cons_of_not_due hd, reconcileAll_cons, Member.reconcile_of_not_due hd]
    case true =>
      rw [dueCommands_cons_of_due hd]
      exact (Member.reconcile_commanded hd).trans hrest

/-- The commands due at the end are those refused. -/
theorem dueCommands_reconcileAll {ms : List Member} (hms : ms.Nodup) {s : State}
    (hans : ms.length ≤ s.env.answers.length) :
    dueCommands ms (reconcileAll ms s) = refusedOf (dueCommands ms s) s.env.answers := by
  induction ms generalizing s with
  | nil => rfl
  | cons m ms ih =>
    obtain ⟨hm, hms⟩ := List.nodup_cons.mp hms
    have hdue : m.due (reconcileAll (m :: ms) s) = m.due (m.reconcile s) := due_reconcileAll_of_notMem hm _
    cases hd : m.due s
    case false =>
      have hs := Member.reconcile_of_not_due hd
      rw [hs, hd] at hdue
      rw [dueCommands_cons_of_not_due hdue, dueCommands_cons_of_not_due hd, reconcileAll_cons, hs]
      exact ih hms (Nat.le_of_succ_le hans)
    case true =>
      obtain ⟨a, as, ha⟩ : ∃ a as, s.env.answers = a :: as := List.exists_cons_of_length_pos (Nat.zero_lt_of_lt hans)
      have has : (m.reconcile s).env.answers = as := by rw [Member.reconcile_answers hd, ha, List.tail_cons]
      have hrest : dueCommands ms (reconcileAll (m :: ms) s) = refusedOf (dueCommands ms s) as := by
        rw [reconcileAll_cons, ih hms (by simp_all), dueCommands_reconcile_of_notMem hm, has]
      have hcmd := m.command_of_passFrame (reconcileAll_frame (m :: ms) s)
      rw [Member.due_reconcile_same hd, nextAnswer_of_head? (a := a) (by rw [ha, List.head?_cons])] at hdue
      rw [dueCommands_cons_of_due hd, ha]
      cases a
      case ok => rw [dueCommands_cons_of_not_due hdue, refusedOf_cons_ok, hrest]
      case notOk => rw [dueCommands_cons_of_due hdue, refusedOf_cons_notOk, hrest, hcmd]

/-! ### The pass -/

/-- The members in the order of R222. -/
def passMembers : List Member :=
  [.leg .r, .leg .cw, .leg .tw, .slave 0, .slave 1, .slave 2, .slave 3]

theorem passMembers_nodup : passMembers.Nodup := by simp [passMembers]

theorem reconcilePass_eq (s : State) : reconcilePass s = reconcileAll passMembers (updateConfno s) := by
  simp only [reconcilePass, passMembers, reconcileAll_cons, reconcileAll_nil, Member.reconcile]
  rfl

@[simp] theorem updateConfno_env (s : State) : (updateConfno s).env = s.env := by
  unfold updateConfno
  split
  · rfl
  · split <;> rfl

/-- Writing a conference number that is already there changes nothing. -/
theorem updConf_confno_of_eq {v : Bool} {n : Byte} {t : State} (hv : t.conf.confnoV = v) (hn : t.conf.confno = n) :
    t.updConf (fun c => { c with confnoV := v, confno := n }) = t := by
  subst hv hn
  rfl

/-- R225 assigns the same values again as long as a pass's frame and the conference number last. -/
theorem updateConfno_of_settled {s t : State} (h : PassFrame s t)
    (hv : t.conf.confnoV = (updateConfno s).conf.confnoV) (hn : t.conf.confno = (updateConfno s).conf.confno) :
    updateConfno t = t := by
  unfold updateConfno at *
  rw [h.isOwn, h.isNative, h.isNeeded, h.lineId]
  by_cases hown : (isOwn s && !isNative s) = true
  · rw [if_pos hown] at *
    exact updConf_confno_of_eq hv hn
  · rw [if_neg hown] at *
    by_cases hfree : (!isNeeded s) = true
    · rw [if_pos hfree] at *
      exact updConf_confno_of_eq hv hn
    · rw [if_neg hfree]

theorem updateConfno_reconcilePass (s : State) : updateConfno (reconcilePass s) = reconcilePass s := by
  obtain ⟨hv, hn⟩ := reconcileAll_confno passMembers (updateConfno s)
  rw [← reconcilePass_eq] at hv hn
  exact updateConfno_of_settled (reconcilePass_frame s) hv hn

/-- The commands a second pass finds due are those the first one had refused. -/
theorem dueCommands_reconcilePass {s : State} (h : 7 ≤ s.env.answers.length) :
    dueCommands passMembers (reconcilePass s) = failedCommands s (reconcilePass s) := by
  have hfirst := (reconcileAll_commanded passMembers_nodup (updateConfno s)).newWords
  rw [← reconcilePass_eq, newWords, updateConfno_env, ← newWords] at hfirst
  have hlen : passMembers.length ≤ (updateConfno s).env.answers.length := by simpa [passMembers] using h
  rw [failedCommands_eq, hfirst, reconcilePass_eq, dueCommands_reconcileAll passMembers_nodup hlen, updateConfno_env]

theorem exec_hostReconcile_of_configured {s : State} (h : s.line.configured = true) :
    exec .hostReconcile s = .next (reconcilePass s) :=
  congrArg Host.Outcome.next (hostEntry_configured h)

end Sys2Proof.Machine

namespace Sys2Proof

open Sys2Proof.Machine

/-- Settles O45: a second pass emits what is due after the first, which is what was refused; where nothing is due it
changes nothing. -/
theorem reconcileIsIdempotent : Obligations.ReconcileIsIdempotent := by
  intro s t hconf hans hexec
  rw [exec_hostReconcile_of_configured hconf] at hexec
  obtain rfl := Host.Outcome.next.inj hexec
  have hconf' : (reconcilePass s).line.configured = true := (reconcilePass_frame s).line ▸ hconf
  rw [exec_hostReconcile_of_configured hconf', ← dueCommands_reconcilePass hans, reconcilePass_eq (reconcilePass s),
    updateConfno_reconcilePass]
  exact ⟨fun hnone => congrArg _ (reconcileAll_of_dueCommands_nil hnone), _, rfl,
    (reconcileAll_commanded passMembers_nodup _).newWords⟩

end Sys2Proof

end

/-! PROOFS. `CFGWR` (O35).

R380 tests the number and the value one after the other. Where the number is within the register file, the tests that are
left are those of `wfCfg` (R112). -/

section

namespace Sys2Proof.Machine

/-! ### Reading a configuration register after a write -/

theorem cfgRead_setIfInBounds (regs : CfgRegs) {k : Nat} (hk : k < cfgCount) (v : Half) (n : Nat) :
    cfgRead (regs.setIfInBounds k v) n = if n = k then v else cfgRead regs n := by
  by_cases hn : n = k
  · simp [cfgRead, hn, hk]
  · simp [cfgRead, hn, Vector.getElem?_setIfInBounds_ne (Ne.symm hn)]

/-! ### `CFGWR` (R380) -/

theorem lt_cfgCount_of_wfCfg {reg : Byte} {value : Half} (h : wfCfg reg value = true) : reg.toNat < cfgCount := by
  simp only [wfCfg, Bool.and_eq_true, decide_eq_true_eq] at h
  exact BitVec.lt_def.mp h.1.1

theorem hostCfgwrBody_locked {s : State} (h : s.line.configured = true) (reg : Byte) (value : Half) :
    hostCfgwrBody reg value s = raise .cfgLocked s := by
  simp [hostCfgwrBody, h]

theorem hostCfgwrBody_outOfRange {s : State} (h : s.line.configured = false) {reg : Byte} (hreg : 0x40 ≤ reg)
    (value : Half) : hostCfgwrBody reg value s = raise .badAddr s := by
  rw [hostCfgwrBody, if_neg (by simp [h])]
  exact if_pos hreg

/-- For a number within the file, the checks of R380 are those of R112. -/
theorem hostCfgwrBody_inRange {s : State} (h : s.line.configured = false) {reg : Byte} (hreg : reg < 0x40)
    (value : Half) :
    hostCfgwrBody reg value s =
      if wfCfg reg value = true then s.updCfg fun regs => regs.setIfInBounds reg.toNat (value &&& implementedMask reg)
      else raise .badArg s := by
  have hin : ¬ 0x40#8 ≤ reg := BitVec.not_le.mpr hreg
  simp only [hostCfgwrBody, h, wfCfg, if_neg hin, Bool.false_eq_true, if_false]
  by_cases hex : 0x1D#8 ≤ reg
  · rw [if_pos hex]
    simp [BitVec.not_lt.mpr hex]
  · rw [if_neg hex]
    simp only [BitVec.not_le.mp hex, decide_true, Bool.true_and]
    cases reg == 0x00#8 && decide (10#4 < slice value 0 4)
    case true => rfl
    case false => cases reg == 0x02#8 && (slice value 0 2 == 3#2 || slice value 2 2 == 3#2) <;> rfl

theorem exec_hostCfgwr (reg : Byte) (value : Half) (s : State) :
    exec (.hostCfgwr reg value) s = .next (hostCfgwrBody reg value s) := rfl

end Sys2Proof.Machine

namespace Sys2Proof

open Sys2Proof.Machine

/-- Settles O35: the masked write from `hostCfgwrBody_inRange` and `cfgRead_setIfInBounds`, each refusal from its branch. -/
theorem cfgwrWord : Obligations.CfgwrWord := by
  intro s reg value
  rw [exec_hostCfgwr]
  refine ⟨fun hc hwf => ?legal, fun hc => congrArg _ (hostCfgwrBody_locked hc reg value),
    fun hc hreg => congrArg _ (hostCfgwrBody_outOfRange hc hreg value), fun hc hreg hwf => ?reserved⟩
  case legal =>
    have hk := lt_cfgCount_of_wfCfg hwf
    have hreg : reg < 0x40 := BitVec.lt_def.mpr (hk.trans (by decide))
    rw [hostCfgwrBody_inRange hc hreg, if_pos hwf]
    exact ⟨_, rfl, rfl, cfgRead_setIfInBounds s.cfg hk _⟩
  case reserved => rw [hostCfgwrBody_inRange hc hreg, if_neg (Bool.eq_false_iff.mp hwf)]

end Sys2Proof

end

/-! PROOFS. `POLL` (O53).

R396 is one indication, which carries the `PEND` read before it is cleared. A leg that is not allocated is an empty bank
(`BankInv.free`), so nothing is there to clear. -/

section

namespace Sys2Proof.Machine

/-! ### Leg operands -/

theorem code_of_legOf {leg : BitVec 2} {x : Leg} (h : legOf leg = some x) : x.code = leg := by
  revert h
  cases x <;> revert leg <;> decide

theorem withLeg_of_legOf_none {leg : BitVec 2} (h : legOf leg = none) (body : Leg → State → State) (s : State) :
    withLeg leg body s = raise .badArg s := by
  simp [withLeg, h]

/-! ### Rewriting a bank -/

/-- Writing what a bank holds already changes nothing. -/
theorem State.updBank_of_fixed {s : State} {x : Leg} {f : Bank → Bank} (h : f (s.bank x) = s.bank x) :
    s.updBank x f = s :=
  State.ext_components rfl rfl (fun y => by rw [State.bank_updBank]; split <;> simp_all)
    rfl rfl rfl rfl rfl rfl rfl rfl

/-! ### `POLL` (R396) -/

theorem exec_hostPoll_of_configured {s : State} (h : s.line.configured = true) (leg : BitVec 2) :
    exec (.hostPoll leg) s = .next (hostPollBody leg s) :=
  congrArg Host.Outcome.next (hostEntry_configured h)

theorem hostPollBody_of_legOf {leg : BitVec 2} {x : Leg} (h : legOf leg = some x) (s : State) :
    hostPollBody leg s =
      (said [indWord (lineId s) (0#2 ++ leg) (.pendVal (s.bank x).pend)] s).updBank x fun b => { b with pend := 0 } := by
  rw [hostPollBody, withLeg_of_legOf h, indicateLeg, legField4, code_of_legOf h]
  rfl

/-- A bank that is not in use has nothing pending: polling it is the indication alone. -/
theorem hostPollBody_of_free {leg : BitVec 2} {x : Leg} (h : legOf leg = some x) {s : State} (hs : BankInv s)
    (hfree : (s.bank x).alloc = false) :
    hostPollBody leg s = said [indWord (lineId s) (0#2 ++ leg) (.pendVal 0)] s := by
  have hempty : s.bank x = Bank.empty := hs.free x hfree
  rw [hostPollBody_of_legOf h, hempty]
  exact State.updBank_of_fixed (congrArg (fun b : Bank => { b with pend := 0 }) hempty |>.trans hempty.symm)

end Sys2Proof.Machine

namespace Sys2Proof

open Sys2Proof.Machine

/-- Settles O53: the indication and the clearing for a leg, what they come to where the leg is free, and the
operand's check. -/
theorem pollWord : Obligations.PollWord := by
  intro s leg hconf
  rw [exec_hostPoll_of_configured hconf]
  exact ⟨fun x hx => congrArg _ (hostPollBody_of_legOf hx s),
    fun x hx hfree hs => congrArg _ (hostPollBody_of_free hx hs hfree), fun hn => congrArg _ (withLeg_of_legOf_none hn _ s)⟩

end Sys2Proof

end

/-! PROOFS. `SETLINEAR` and `INDICATE` (O54).

`SETLINEAR` is one branch of R398 after the other. `INDICATE` takes the tone that plays for another one: what is left of it
is the new `TONE` up to the words spoken (`Talk`), the commands among those words do not depend on the answers
(`Commanded`), and where the answers are `OK` no error is raised (`Accepts`). -/

section

namespace Sys2Proof.Machine

/-! ### Rules that raise no error -/

/-- The Line Resource will answer `OK` to the next `n` commands, as `Accepting` has it for 64. -/
def Accepts (n : Nat) (s : State) : Prop := n ≤ s.env.answers.length ∧ ∀ a ∈ s.env.answers, a = .ok

theorem Accepting.accepts {s : State} (h : Accepting s) : Accepts 64 s := ⟨h.enough, h.ok⟩

theorem Accepts.mono {m n : Nat} (hmn : m ≤ n) {s : State} (h : Accepts n s) : Accepts m s :=
  ⟨hmn.trans h.1, h.2⟩

theorem Accepts.acceptingNext {n : Nat} {s : State} (h : Accepts (n + 1) s) : AcceptingNext s := by
  obtain ⟨hlen, hok⟩ := h
  obtain ⟨a, as, has⟩ := List.exists_cons_of_length_pos (Nat.zero_lt_of_lt hlen)
  obtain rfl : a = .ok := hok a (by simp [has])
  simp [AcceptingNext, has]

theorem Accepts.spoke {n : Nat} {s : State} (h : Accepts (n + 1) s) (w : ActionWord) : Accepts n (spoke w s) := by
  obtain ⟨hlen, hok⟩ := h
  refine ⟨?_, fun a ha => hok a (List.mem_of_mem_tail ha)⟩
  simp only [Machine.spoke, State.updEnv_env, List.length_tail]
  omega

theorem lrTry_of_acceptingNext {s : State} (h : AcceptingNext s) (line : Byte) (f : BitVec 4) (c : LrCmd) :
    lrTry line f c s = spoke (lrWord line f c) s :=
  lrCase_of_acceptingNext h line f c id (raise c.error)

theorem stopTone_of_accepts {n : Nat} {s : State} (h : Accepts (n + 1) s) :
    NoError s (stopTone s) ∧ Accepts n (stopTone s) := by
  refine onlyIf_cases (P := fun t => NoError s t ∧ Accepts n t) (fun _ => ?_) (fun _ => ⟨rfl, h.mono n.le_succ⟩)
  rw [lrReal, lrLeg, lrTry_of_acceptingNext h.acceptingNext]
  exact ⟨rfl, h.spoke _⟩

theorem startTone_of_acceptingNext {s : State} (h : AcceptingNext s) (t : Tone) : NoError s (startTone t s) := by
  rw [startTone, lrReal, lrLeg, lrTry_of_acceptingNext h]
  rfl

/-! ### The commands of the tone rules (R133) -/

/-- A non-essential command is emitted whatever its answer. -/
theorem lrTry_commanded (line : Byte) (f : BitVec 4) (c : LrCmd) (s : State) :
    Commanded [lrWord line f c] s (lrTry line f c s) :=
  have hasked := asked_commanded (isCommand_lrWord line f c) s
  lrCase_cases (P := Commanded _ s) hasked (hasked.trans (raise_commanded _ _))

theorem stopTone_commanded (s : State) :
    Commanded (if s.line.tone = .none then [] else [lrWord (lineId s) (realH s) .toneStop]) s (stopTone s) := by
  refine onlyIf_cases (P := Commanded _ s) (fun h => ?_) (fun h => ?_)
  · rw [if_neg (by simpa using h)]
    exact lrTry_commanded _ _ _ s
  · rw [if_pos (by simpa using h)]
    exact .refl s

theorem startTone_commanded (t : Tone) (s : State) :
    Commanded [lrWord (lineId s) (realH s) (.tonePlay t)] s (startTone t s) :=
  lrTry_commanded _ _ _ s

/-! ### One tone for another (R399) -/

/-- The tone that plays is stopped, and `t` is played if it is one. -/
def replaceTone (t : Tone) (s : State) : State := s |> stopTone |> onlyIf (fun _ => t != .none) (startTone t)

theorem replaceTone_none (s : State) : replaceTone .none s = stopTone s := rfl

theorem replaceTone_of_ne {t : Tone} (h : t ≠ .none) (s : State) : replaceTone t s = startTone t (stopTone s) :=
  onlyIf_true (by simpa using h)

theorem replaceTone_talk (t : Tone) (s : State) :
    Talk (s.updLine fun l => { l with tone := t }) (replaceTone t s) := by
  by_cases ht : t = .none
  · rw [ht, replaceTone_none]
    exact stopTone_talk s
  · rw [replaceTone_of_ne ht]
    exact ((stopTone_talk s).updLine fun l => { l with tone := t }).trans (startTone_talk t _)

theorem replaceTone_commanded (t : Tone) (s : State) :
    Commanded
      ((if s.line.tone = .none then [] else [lrWord (lineId s) (realH s) .toneStop]) ++
        (if t = .none then [] else [lrWord (lineId s) (realH s) (.tonePlay t)])) s (replaceTone t s) := by
  have hstop := stopTone_commanded s
  by_cases ht : t = .none
  · simpa [ht, replaceTone_none] using hstop
  · have htalk := stopTone_talk s
    have hstart := startTone_commanded t (stopTone s)
    rw [lineId, realH, htalk.cfg, htalk.banks] at hstart
    rw [replaceTone_of_ne ht, if_neg ht]
    exact hstop.trans hstart

theorem replaceTone_noError {s : State} (h : Accepting s) (t : Tone) : NoError s (replaceTone t s) := by
  obtain ⟨hstop, haccepts⟩ := stopTone_of_accepts h.accepts
  by_cases ht : t = .none
  · rw [ht, replaceTone_none]
    exact hstop
  · rw [replaceTone_of_ne ht]
    exact (startTone_of_acceptingNext haccepts.acceptingNext t).trans hstop

/-! ### `INDICATE` (R399) -/

theorem indicatedTone_eq_none_iff (cond : BitVec 2) : indicatedTone cond = .none ↔ cond = 0 := by
  revert cond
  decide

theorem settingUp_iff (s : State) :
    settingUp s = true ↔ s.banks.real.owned = true ∧ s.line.hook = true ∧
      (s.line.st = .threeWayDialing ∨ s.line.st = .offered ∧ s.line.calldir = .inbound) := by
  simp [settingUp, and_assoc]

theorem settingUp_eq_false_iff (s : State) :
    settingUp s = false ↔ s.banks.real.owned = false ∨ s.line.hook = false ∨
      s.line.st ≠ .threeWayDialing ∧ ¬ (s.line.st = .offered ∧ s.line.calldir = .inbound) := by
  rw [← Bool.not_eq_true, settingUp_iff]
  simp only [not_and_or, not_or, Bool.not_eq_true, ne_eq]

theorem hostIndicateBody_settingUp {s : State} (h : settingUp s = true) (cond : BitVec 2) :
    hostIndicateBody cond s = replaceTone (indicatedTone cond) s := by
  simp [hostIndicateBody, replaceTone, h]

theorem hostIndicateBody_unexpected {s : State} (h : settingUp s = false) (cond : BitVec 2) :
    hostIndicateBody cond s = raise .unexpected s := by
  simp [hostIndicateBody, h]

theorem exec_hostIndicate_of_configured {s : State} (h : s.line.configured = true) (cond : BitVec 2) :
    exec (.hostIndicate cond) s = .next (hostIndicateBody cond s) :=
  congrArg Host.Outcome.next (hostEntry_configured h)

/-- Rewriting line registers and talking stay within the frame of a line rule. -/
theorem Talk.callFrame {f : LineRegs → LineRegs} {s t : State} (h : Talk (s.updLine f) t) : CallFrame s t :=
  ⟨h.par, h.rx, h.mwi, h.cfg, .of_mem h.mem, h.events, h.frames⟩

/-! ### `SETLINEAR` (R398) -/

section Setlinear

variable {leg : BitVec 2} {x : Leg} {s : State} {b : Bool}

theorem hostSetlinearBody_free (hleg : legOf leg = some x) (h : (s.bank x).alloc = false) :
    hostSetlinearBody leg b s = raise .unexpected s := by
  simp [hostSetlinearBody, withLeg_of_legOf hleg, h]

/-- A spill is sent companded, so Real's new mode waits in `LIN_SAVED` until it is over. -/
theorem hostSetlinearBody_deferred (hleg : legOf leg = some .r) (h : s.banks.real.alloc = true) (hgo : s.tx.go = true) :
    hostSetlinearBody leg b s = s.updTx fun t => { t with linSaved := b } := by
  simp [hostSetlinearBody, withLeg_of_legOf hleg, h, hgo]

/-- An allocated leg that is not deferred is commanded if its mode changes. -/
theorem hostSetlinearBody_commanded (hleg : legOf leg = some x) (h : (s.bank x).alloc = true)
    (hgo : ¬ (x = .r ∧ s.tx.go = true)) :
    hostSetlinearBody leg b s =
      if (s.bank x).linear = b then s
      else lrCase (lineId s) (legH x s) (.setLinear b) (State.updBank x fun k => { k with linear := b })
        (raise .lrCtrl) s := by
  simp [hostSetlinearBody, withLeg_of_legOf hleg, h, hgo]

theorem exec_hostSetlinear_of_configured (h : s.line.configured = true) (leg : BitVec 2) (b : Bool) :
    exec (.hostSetlinear leg b) s = .next (hostSetlinearBody leg b s) :=
  congrArg Host.Outcome.next (hostEntry_configured h)

end Setlinear

end Sys2Proof.Machine

namespace Sys2Proof

open Sys2Proof.Machine

/-- Settles O54: each branch of R398 is an equation of its body; R399 is `replaceTone`, or refused. -/
theorem setlinearAndIndicate : Obligations.SetlinearAndIndicate := by
  intro s leg cond b hconf
  simp only [exec_hostSetlinear_of_configured hconf, exec_hostIndicate_of_configured hconf]
  refine ⟨fun x hx ha hgo hne hacc => ?accepted, fun x hx ha hgo hne href => ?refused,
    fun x hx hfree => congrArg _ (hostSetlinearBody_free hx hfree), congrArg _ (withLeg_three _ s),
    fun x hx ha hgo heq => ?unchanged, fun ha hgo => congrArg _ (hostSetlinearBody_deferred rfl ha hgo),
    fun ho hh hst => ?toned, fun hn => congrArg _ (hostIndicateBody_unexpected ((settingUp_eq_false_iff s).mpr hn) cond)⟩
  case accepted => rw [hostSetlinearBody_commanded hx ha hgo, if_neg hne, lrCase_of_acceptingNext hacc]; rfl
  case refused => rw [hostSetlinearBody_commanded hx ha hgo, if_neg hne, lrCase_of_refusing href]; rfl
  case unchanged => rw [hostSetlinearBody_commanded hx ha hgo, if_pos heq]
  case toned =>
    have htalk := replaceTone_talk (indicatedTone cond) s
    have hwords := (replaceTone_commanded (indicatedTone cond) s).newWords
    simp only [indicatedTone_eq_none_iff] at hwords
    exact ⟨_, congrArg _ (hostIndicateBody_settingUp ((settingUp_iff s).mpr ⟨ho, hh, hst⟩) cond), htalk.line,
      htalk.banks, htalk.conf, htalk.tx, htalk.callFrame, hwords, fun hacc => replaceTone_noError hacc _⟩

end Sys2Proof

end

/-! PROOFS. `raise` (O21).

`raise_eq` gives the state `raise` leaves; what is left is the two values R412 writes out: the count, which stops at 65535,
and the `ERRIND` word. -/

section

namespace Sys2Proof.Machine

/-- All ones of 16 bits is 65535, where `ERRCNT` stays (R34). -/
theorem countUp_half (n : Half) : countUp n = if n = 0xFFFF then 0xFFFF else n + 1 :=
  ite_congr rfl (fun hmax => hmax) fun _ => rfl

/-- The fields of an `ERRIND` word (R106, R108). -/
theorem indWord_error (line : Byte) (h : BitVec 4) (e : ErrCode) :
    indWord line h (.error e) = 2#4 ++ 0x05#8 ++ line ++ h ++ 0#8 ++ (0#21 ++ e.errClass ++ e.code) := rfl

end Sys2Proof.Machine

namespace Sys2Proof

open Sys2Proof.Machine

/-- Settles O21: the state `raise` leaves, with the saturating count and the `ERRIND` word written out. -/
theorem raiseIsTheWholeTrap : Obligations.RaiseIsTheWholeTrap := by
  intro e s
  rw [raise_eq, countUp_half, indWord_error]
  rfl

end Sys2Proof

end

/-! PROOFS. The words of the encoder (O1, O2) and what a step does with the next word (O4).

`SRC` picks the table and `CODE` the row; the operand fields of each row are read back by the lemmas of `Laws/Decode.lean`. -/

section

namespace Sys2Proof

open Sys2Proof.Machine

/-! ### The operand layouts of single rows -/

/-- `SWAP` packs its two legs into one byte (R104). -/
@[simp] theorem slice_swapByte_low (a b : BitVec 2) : slice (0#2 ++ a ++ 0#2 ++ b : Byte) 0 2 = b := by
  revert a b; decide

@[simp] theorem slice_swapByte_high (a b : BitVec 2) : slice (0#2 ++ a ++ 0#2 ++ b : Byte) 4 2 = a := by
  revert a b; decide

/-- A flag alone in `A16` is its low bit (R102). -/
@[simp] theorem flagHalf_getElem (b : Bool) : (flagHalf b)[0] = b := by cases b <;> decide

/-- `CALL`'s mode is the low bit of `A8` (R104). -/
@[simp] theorem modeByte_getElem (b : Bool) : (0#7 ++ bit b : Byte)[0] = b := by cases b <;> decide

/-- `MASTERSET`'s flags stand above the conference number (R104). -/
@[simp] theorem masterHalf_valid (v n : Bool) (c : Byte) : (0#6 ++ bit v ++ bit n ++ c : Half)[9] = v := by
  rw [BitVec.getElem_append, dif_neg (by decide)]
  cases v <;> cases n <;> rfl

@[simp] theorem masterHalf_native (v n : Bool) (c : Byte) : (0#6 ++ bit v ++ bit n ++ c : Half)[8] = n := by
  rw [BitVec.getElem_append, dif_neg (by decide)]
  cases v <;> cases n <;> rfl

@[simp] theorem masterHalf_confno (x : BitVec 8) (c : Byte) : slice (x ++ c : Half) 0 8 = c := slice_halfOf_low x c

/-- `TICK`'s flags are the two low bits (R105). -/
@[simp] theorem tickHalf_rxvalid (r t : Bool) : (0#14 ++ bit r ++ bit t : Half)[1] = r := by
  cases r <;> cases t <;> decide

@[simp] theorem tickHalf_txready (r t : Bool) : (0#14 ++ bit r ++ bit t : Half)[0] = t := by
  cases r <;> cases t <;> decide

/-! ### The table of each source -/

section Source

variable (c : BitVec 6) (a8 : Byte) (a16 : Half)

theorem decode_evWord_hw : decode (evWord 0 c a8 a16) = decodeHw (evWord 0 c a8 a16) := by
  simp only [decode, srcOf_evWord]; rfl

theorem decode_evWord_fake : decode (evWord 1 c a8 a16) = decodeFake (evWord 1 c a8 a16) := by
  simp only [decode, srcOf_evWord]; rfl

theorem decode_evWord_host : decode (evWord 2 c a8 a16) = decodeHost (evWord 2 c a8 a16) := by
  simp only [decode, srcOf_evWord]; rfl

theorem decode_evWord_time : decode (evWord 3 c a8 a16) = decodeTime (evWord 3 c a8 a16) := by
  simp only [decode, srcOf_evWord]; rfl

end Source

/-- Every operation's word decodes to it: the source's table, then the row's operands. -/
theorem decode_encode (i : Instr) : decode (encode i) = .ok i := by
  cases i <;> simp only [encode, decode_evWord_hw, decode_evWord_fake, decode_evWord_host, decode_evWord_time] <;>
    simp [decodeHw, decodeFake, decodeHost, decodeTime]

theorem decodeBytes_encodeBytes (i : Instr) (rest : List Byte) :
    decodeBytes (encodeBytes i ++ rest) = .ok (i, rest) := by
  rw [encodeBytes, decodeBytes_bytesOfWord, decode_encode]

/-- Settles O1: the word from `decode_encode`, the bytes from `decodeBytes_bytesOfWord`. -/
theorem decodeOfEncode : Obligations.DecodeOfEncode := fun i rest =>
  ⟨decode_encode i, decodeBytes_encodeBytes i rest⟩

/-- Settles O2: eight closed words. -/
theorem wordsOfTheSpec : Obligations.WordsOfTheSpec := by
  refine ⟨?_, ?_, ?_, ?_, ?_, ?_, ?_, ?_⟩ <;> decide

/-! ### The step -/

namespace Machine

theorem runWord_of_decode_ok {w : Word} {i : Instr} (h : decode w = .ok i) (s : State) : runWord w s = exec i s := by
  simp [runWord, h]

theorem step_of_decode_ok {s : State} {w : Word} {rest : List Word} {i : Instr} (hq : s.env.events = w :: rest)
    (hi : decode w = .ok i) : step s = exec i { s with env := { s.env with events := rest } } := by
  rw [step_of_events_cons hq, runWord_of_decode_ok hi]

/-- A delivered word that fits 32 bits is at the head of the queue as it is. -/
theorem withFetchWord_events (s : State) (w : Word) :
    (s.withFetchWord 32 w.toNat).env.events = w :: s.env.events := by
  simp [State.withFetchWord, Nat.mod_eq_of_lt w.isLt]

theorem step_of_no_events {s : State} (h : s.env.events = []) : step s = .next s := by
  simp [step, fetch_empty h]

end Machine

/-- Settles O4: the fetched word is decoded and run; taking a delivered word off again leaves the state it was delivered
to. -/
theorem stepRunsWord : Obligations.StepRunsWord := fun s =>
  ⟨fun _ _ _ hq hi => step_of_decode_ok hq hi,
    fun i => step_of_decode_ok (withFetchWord_events s (encode i)) (decode_encode i), step_of_no_events⟩

end Sys2Proof

end

/-! PROOFS. The Caller-ID round trip (O60).

The modem's law gives the bits back. Of these `FSK_PARSE` skips the preamble, whose alternating part never runs to ten
marks, and reads one byte per frame until the length byte says the message is whole; `MDMF_PARSE` then finds the checksum
right and takes the two parameters off the body in turn. -/

section

namespace Sys2Proof.Machine

open Sys2Proof.Config (CodecParams FskStd Law waveforms)

/-! ### The preamble (R306, R316) -/

theorem firstStart_marks (k n : Nat) (rest : List Bool) :
    firstStart k (marks n ++ rest) = firstStart (k + n) rest := by
  induction n generalizing k with
  | zero => rfl
  | succ n ih =>
    simp only [marks, List.replicate_succ, List.cons_append, firstStart] at ih ⊢
    rw [ih, Nat.add_right_comm, Nat.add_assoc]

theorem alternating_succ (n : Nat) : alternating (n + 1) = alternating n ++ [n % 2 == 1] := by
  simp [alternating, List.range_succ]

/-- After alternating bits the run of marks is at most one long, and empty after an odd number of them. -/
theorem firstStart_alternating (n : Nat) :
    ∃ k, k ≤ 1 ∧ (n % 2 = 1 → k = 0) ∧ ∀ rest, firstStart 0 (alternating n ++ rest) = firstStart k rest := by
  induction n with
  | zero => exact ⟨0, by simp, by simp, fun _ => rfl⟩
  | succ n ih =>
    obtain ⟨k, hk, hodd, hrun⟩ := ih
    obtain hn | hn : n % 2 = 0 ∨ n % 2 = 1 := by omega
    · refine ⟨0, by simp, fun _ => rfl, fun rest => ?_⟩
      have hshort : ¬ 10 ≤ k := by omega
      simp [alternating_succ, hrun, hn, firstStart, hshort]
    · refine ⟨1, le_refl 1, by omega, fun rest => ?_⟩
      simp [alternating_succ, hrun, hn, firstStart, hodd hn]

/-- `FSK_PARSE` finds the first start bit behind any preamble. -/
theorem firstStart_preamble {p : CodecParams} (hp : p.ok) (kind : SpillKind) (bits : List Bool) :
    firstStart 0 (seizure p kind ++ marks (preMark p kind) ++ false :: bits) = some (false :: bits) := by
  obtain ⟨hpre, hprecw, -⟩ := hp
  obtain ⟨k, -, -, hrun⟩ := firstStart_alternating p.seizureBits
  have hten (j n : Nat) (hn : 10 ≤ n) : firstStart j (marks n ++ false :: bits) = some (false :: bits) := by
    rw [firstStart_marks, firstStart, if_pos (by omega)]
  cases kind
  case cwcid => exact hten 0 _ hprecw
  all_goals
    rw [seizure, preMark, List.append_assoc, hrun]
    exact hten k _ hpre

/-! ### Reading frames (R305, R316) -/

theorem byteOfBits_bits (b : Byte) :
    byteOfBits [b.getLsbD 0, b.getLsbD 1, b.getLsbD 2, b.getLsbD 3, b.getLsbD 4, b.getLsbD 5, b.getLsbD 6, b.getLsbD 7]
      = b := by
  revert b; decide

/-- Behind a start bit up to eight bits are gathered as they come. -/
theorem fskBytes_gather (m : List Byte) (cur ds rest : List Bool) (hcur : cur ≠ []) (hlen : cur.length + ds.length ≤ 9) :
    fskBytes m cur (ds ++ rest) = fskBytes m (cur ++ ds) rest := by
  induction ds generalizing cur with
  | nil => simp
  | cons d ds ih =>
    have hshort : cur.length < 9 := by rw [List.length_cons] at hlen; omega
    rw [List.cons_append, fskBytes, if_neg (by simp [hcur]), if_pos hshort,
      ih (cur ++ [d]) (by simp) (by simp at hlen ⊢; omega), List.append_assoc, List.singleton_append]

/-- The stop bit ends a byte: it is the message's last one, or reading goes on. -/
theorem fskBytes_stop (m : List Byte) (cur rest : List Bool) (hlen : cur.length = 9) :
    fskBytes m cur (true :: rest) =
      if needBytes (m ++ [byteOfBits (cur.drop 1)]) = 0 then .bytes (m ++ [byteOfBits (cur.drop 1)])
      else fskBytes (m ++ [byteOfBits (cur.drop 1)]) [] rest := by
  have hcur : cur.isEmpty = false := by rw [List.isEmpty_eq_false_iff, ← List.length_pos_iff]; omega
  simp only [fskBytes, hcur, Bool.false_and, hlen, Bool.false_eq_true, if_false, Nat.lt_irrefl, Bool.not_true]

/-- One frame is one byte: it ends the message or goes on with it. -/
theorem fskBytes_frameByte (m : List Byte) (b : Byte) (rest : List Bool) :
    fskBytes m [] (frameByte b ++ rest) =
      if needBytes (m ++ [b]) = 0 then .bytes (m ++ [b]) else fskBytes (m ++ [b]) [] rest := by
  have hgather := fskBytes_gather m [false]
    [b.getLsbD 0, b.getLsbD 1, b.getLsbD 2, b.getLsbD 3, b.getLsbD 4, b.getLsbD 5, b.getLsbD 6, b.getLsbD 7]
    (true :: rest) (by simp) (by simp)
  have hstart (bs : List Bool) : fskBytes m [] (false :: bs) = fskBytes m [false] bs := rfl
  refine (hstart _).trans (hgather.trans ?_)
  rw [fskBytes_stop _ _ _ rfl, List.singleton_append, List.drop_one, List.tail_cons, byteOfBits_bits]

/-- A whole message: its length byte counts the bytes between itself and the checksum (R305). -/
def Framed (m : List Byte) : Prop := ∃ type len rest, m = type :: len :: rest ∧ rest.length = len.toNat + 1

theorem Framed.needBytes_eq_zero {m : List Byte} (h : Framed m) : needBytes m = 0 := by
  obtain ⟨type, len, rest, rfl, hlen⟩ := h
  simp [needBytes, hlen]

/-- What is read of a message before its end still lacks bytes. -/
theorem Framed.needBytes_ne_zero {m pre suf : List Byte} (h : Framed m) (hm : m = pre ++ suf) (hsuf : suf ≠ []) :
    needBytes pre ≠ 0 := by
  obtain ⟨type, len, rest, rfl, hlen⟩ := h
  have hpos := List.length_pos_of_ne_nil hsuf
  match pre with
  | [] => simp [needBytes]
  | [_] => simp [needBytes]
  | a :: b :: pre' =>
    obtain ⟨rfl, rfl, rfl⟩ : type = a ∧ len = b ∧ rest = pre' ++ suf := by simpa using hm
    simp only [List.length_append] at hlen
    simp only [needBytes, List.length_cons]
    omega

/-- From any point of a message the loop of R316 reads it to its end. -/
theorem fskBytes_framed {m pre suf : List Byte} (h : Framed m) (hm : m = pre ++ suf) (hsuf : suf ≠ [])
    (rest : List Bool) : fskBytes pre [] (frameBytes suf ++ rest) = .bytes m := by
  induction suf generalizing pre with
  | nil => exact absurd rfl hsuf
  | cons b suf ih =>
    have hm' : m = (pre ++ [b]) ++ suf := by simp [hm]
    rw [frameBytes, List.flatMap_cons, List.append_assoc, fskBytes_frameByte]
    by_cases hend : suf = []
    · have hwhole : pre ++ [b] = m := by simp [hm', hend]
      rw [hwhole, if_pos h.needBytes_eq_zero]
    · rw [if_neg (h.needBytes_ne_zero hm' hend)]
      exact ih hm' hend

/-- `FSK_PARSE` gives a framed message back, whatever follows it. -/
theorem fskParse_framed {p : CodecParams} (hp : p.ok) (kind : SpillKind) {m : List Byte} (h : Framed m)
    (rest : List Bool) :
    fskParse (seizure p kind ++ marks (preMark p kind) ++ frameBytes m ++ rest) = .bytes m := by
  have hread := fskBytes_framed (pre := []) h rfl (by obtain ⟨_, _, _, rfl, _⟩ := h; simp) rest
  obtain ⟨b, m', rfl⟩ : ∃ b m', m = b :: m' := by obtain ⟨b, _, _, rfl, _⟩ := h; exact ⟨b, _, rfl⟩
  rw [frameBytes, List.flatMap_cons, frameByte, List.cons_append, List.cons_append] at hread
  rw [fskParse, List.append_assoc _ _ rest, frameBytes, List.flatMap_cons, frameByte, List.cons_append,
    List.cons_append, firstStart_preamble hp]
  exact hread

/-! ### The message (R308, R317) -/

/-- The checksum makes the bytes sum to 0. -/
theorem byteSum_withChecksum (m : List Byte) : byteSum (withChecksum m) = 0 := by
  simp [byteSum, withChecksum]

theorem mdmfParam_length_le {code : Byte} {v : List Byte} (h : v.length ≤ 16) : (mdmfParam code v).length ≤ 18 := by
  unfold mdmfParam
  split <;> simp; omega

/-- One parameter is taken off the body; an empty one is not there. -/
theorem mdmfParams_number (p : CodecParams) (fuel : Nat) {v : List Byte} (hv : v.length ≤ 16) (rest name : List Byte)
    (hfuel : (mdmfParam p.paramNumber v ++ rest).length ≤ fuel) :
    ∃ fuel', rest.length ≤ fuel' ∧
      mdmfParams p fuel (mdmfParam p.paramNumber v ++ rest) [] name = mdmfParams p fuel' rest v name := by
  by_cases he : v = []
  · subst he
    exact ⟨fuel, by simpa [mdmfParam] using hfuel, rfl⟩
  · have hlen : (BitVec.ofNat 8 v.length).toNat = v.length := by simp; omega
    simp only [mdmfParam, List.isEmpty_iff, he, if_false, List.cons_append, List.length_cons, List.length_append]
      at hfuel ⊢
    obtain ⟨f, rfl⟩ : ∃ f, fuel = f + 1 := ⟨fuel - 1, by omega⟩
    refine ⟨f, by omega, ?_⟩
    simp [mdmfParams, hlen]

theorem mdmfParams_name (p : CodecParams) (hne : p.paramNumber ≠ p.paramName) (fuel : Nat) {v : List Byte}
    (hv : v.length ≤ 16) (num : List Byte) (hfuel : (mdmfParam p.paramName v).length ≤ fuel) :
    mdmfParams p fuel (mdmfParam p.paramName v) num [] = .done num v := by
  by_cases he : v = []
  · subst he
    cases fuel <;> rfl
  · have hlen : (BitVec.ofNat 8 v.length).toNat = v.length := by simp; omega
    simp only [mdmfParam, List.isEmpty_iff, he, if_false, List.length_cons] at hfuel ⊢
    obtain ⟨f, rfl⟩ : ∃ f, fuel = f + 1 := ⟨fuel - 1, by omega⟩
    cases f <;> simp [mdmfParams, hlen, hne.symm]

section Mdmf

variable (p : CodecParams) {num name : List Byte}

/-- The body of the message: the number, then the name. -/
def mdmfBody (num name : List Byte) : List Byte := mdmfParam p.paramNumber num ++ mdmfParam p.paramName name

theorem mdmf_eq (num name : List Byte) :
    mdmf p num name =
      withChecksum (p.msgTypeCid :: BitVec.ofNat 8 (mdmfBody p num name).length :: mdmfBody p num name) := rfl

theorem mdmf_eq_cons (num name : List Byte) :
    ∃ checksum, mdmf p num name =
      p.msgTypeCid :: BitVec.ofNat 8 (mdmfBody p num name).length :: (mdmfBody p num name ++ [checksum]) := ⟨_, rfl⟩

theorem mdmfBody_length_lt (hnum : num.length ≤ 16) (hname : name.length ≤ 16) :
    (mdmfBody p num name).length < 256 := by
  have h1 := mdmfParam_length_le (code := p.paramNumber) hnum
  have h2 := mdmfParam_length_le (code := p.paramName) hname
  simp only [mdmfBody, List.length_append]
  omega

/-- The length byte holds the whole length of the body. -/
theorem toNat_mdmfBody_length (hnum : num.length ≤ 16) (hname : name.length ≤ 16) :
    (BitVec.ofNat 8 (mdmfBody p num name).length).toNat = (mdmfBody p num name).length := by
  have hlt := mdmfBody_length_lt p hnum hname
  simp only [BitVec.toNat_ofNat]
  omega

theorem mdmf_framed (hnum : num.length ≤ 16) (hname : name.length ≤ 16) : Framed (mdmf p num name) := by
  obtain ⟨checksum, heq⟩ := mdmf_eq_cons p num name
  exact ⟨_, _, _, heq, by rw [List.length_append, toNat_mdmfBody_length p hnum hname, List.length_singleton]⟩

theorem mdmfParams_body (hne : p.paramNumber ≠ p.paramName) (hnum : num.length ≤ 16) (hname : name.length ≤ 16) :
    mdmfParams p (mdmfBody p num name).length (mdmfBody p num name) [] [] = .done num name := by
  obtain ⟨fuel, hfuel, h⟩ := mdmfParams_number p _ hnum (mdmfParam p.paramName name) [] (le_refl _)
  exact h.trans (mdmfParams_name p hne fuel hname num hfuel)

/-- `MDMF_PARSE` undoes `MDMF`. -/
theorem mdmfParse_mdmf (hne : p.paramNumber ≠ p.paramName) (hnum : num.length ≤ 16) (hname : name.length ≤ 16) :
    mdmfParse p (mdmf p num name) = .done num name := by
  have hsum : byteSum (mdmf p num name) = 0 := byteSum_withChecksum _
  obtain ⟨checksum, heq⟩ := mdmf_eq_cons p num name
  rw [heq] at hsum ⊢
  simp [mdmfParse, hsum, toNat_mdmfBody_length p hnum hname, mdmfParams_body p hne hnum hname]

end Mdmf

/-! ### The modem (R318) -/

/-- Law L1 of R318 for a message with a closing mark of at least ten bits. -/
theorem demodFsk_synthFsk_fskBits {p : CodecParams} (hp : p.ok) (hpost : 10 ≤ p.postMarkBits) (kind : SpillKind)
    (std : FskStd) (law : Law) (m : List Byte) {n : Nat} (hn : n < p.frameSamples) :
    (waveforms p).demodFsk std law
      ((waveforms p).synthFsk std law (fskBits p kind m) ++ List.replicate n (p.silence law)) = fskBits p kind m := by
  refine (waveforms p).demod_synth hp std law _ n hn
    ⟨seizure p kind ++ marks (preMark p kind) ++ frameBytes m ++ marks (p.postMarkBits - 10), ?_⟩
  have hmarks : marks p.postMarkBits = marks (p.postMarkBits - 10) ++ List.replicate 10 true := by
    rw [marks, marks, ← List.replicate_add, Nat.sub_add_cancel hpost]
  rw [fskBits, hmarks, List.append_assoc _ _ (List.replicate 10 true)]

end Sys2Proof.Machine

namespace Sys2Proof

open Sys2Proof.Machine

/-- Settles O60: the bits come back by the modem's law, the bytes by `fskParse_framed`, the fields by `mdmfParse_mdmf`. -/
theorem callerIdRoundTrip : Obligations.CallerIdRoundTrip := by
  intro p kind std law num name n hp hpost hne hnum hname hn
  rw [cidDecode, demodFsk_synthFsk_fskBits hp hpost kind std law _ hn, cidDecodeBits, fskBits,
    fskParse_framed hp kind (mdmf_framed p hnum hname)]
  exact mdmfParse_mdmf p hne hnum hname

end Sys2Proof

end

/-! PROOFS. How long the spills are (R251, R254, R306, R346): no longer than `SPILL_BYTES` where the parameters fit the map
(R320), and never empty. -/

section

namespace Sys2Proof.Machine

open Sys2Proof.Config (CodecParams Params Law waveforms)

/-! ### Bits and bytes -/

theorem bitStart_le_of_le (p : CodecParams) {m n : Nat} (h : m ≤ n) : p.bitStart m ≤ p.bitStart n := by
  obtain ⟨k, rfl⟩ := Nat.exists_eq_add_of_le h
  exact Config.bitStart_mono p m k

theorem bitStart_pos {p : CodecParams} (hp : p.ok) {n : Nat} (h : 0 < n) : 0 < p.bitStart n :=
  calc 0 = p.bitStart 0 := (Config.bitStart_zero p).symm
    _ < p.bitStart (0 + 1) := Config.bitStart_lt hp 0
    _ ≤ p.bitStart n := bitStart_le_of_le p h

@[simp] theorem frameBytes_length (m : List Byte) : (frameBytes m).length = 10 * m.length := by
  induction m with
  | nil => rfl
  | cons b m ih =>
    have hcons : frameBytes (b :: m) = frameByte b ++ frameBytes m := rfl
    have hten : (frameByte b).length = 10 := rfl
    rw [hcons, List.length_append, ih, hten, List.length_cons]
    omega

@[simp] theorem alternating_length (n : Nat) : (alternating n).length = n := by simp [alternating]

@[simp] theorem marks_length (n : Nat) : (marks n).length = n := by simp [marks]

/-- The bits of a message: what is before it, ten for each byte, and the closing mark. -/
theorem fskBits_length (p : CodecParams) (kind : SpillKind) (m : List Byte) :
    (fskBits p kind m).length = (seizure p kind).length + preMark p kind + 10 * m.length + p.postMarkBits := by
  simp [fskBits, Nat.add_assoc]

theorem fskBits_pos {p : CodecParams} (hp : p.ok) (kind : SpillKind) (m : List Byte) : 0 < (fskBits p kind m).length := by
  obtain ⟨hpre, hprecw, -⟩ := hp
  rw [fskBits_length]
  cases kind <;> simp only [preMark] <;> omega

theorem mdmfParam_length_le_add (code : Byte) (v : List Byte) : (mdmfParam code v).length ≤ v.length + 2 := by
  unfold mdmfParam
  split <;> simp

theorem mdmf_length_le (p : CodecParams) (num name : List Byte) :
    (mdmf p num name).length ≤ 7 + num.length + name.length := by
  have hnum := mdmfParam_length_le_add p.paramNumber num
  have hname := mdmfParam_length_le_add p.paramName name
  obtain ⟨checksum, heq⟩ := mdmf_eq_cons p num name
  rw [heq]
  simp only [mdmfBody, List.length_cons, List.length_append, List.length_nil]
  omega

@[simp] theorem mwiMsg_length (p : CodecParams) (b : Bool) : (mwiMsg p b).length = 6 := rfl

/-- Each character of a DTMF sequence sounds for its on-time and its pause. -/
theorem dtmfSynth_length (p : CodecParams) (law : Law) (cs : List Byte) :
    (dtmfSynth p law cs).length = cs.length * (p.dtmfOnSamples + p.dtmfOffSamples) := by
  induction cs with
  | nil => simp [dtmfSynth]
  | cons c cs ih =>
    simp only [dtmfSynth, List.flatMap_cons, List.length_append, (waveforms p).tone_length, List.length_replicate,
      List.length_cons] at ih ⊢
    rw [ih, Nat.succ_mul, Nat.add_comm]

@[simp] theorem casShort_length (p : CodecParams) (law : Law) : (casShort p law).length = p.casShortSamples :=
  (waveforms p).tone_length _ _ _

theorem casLong_length {p : CodecParams} (hp : p.ok) (law : Law) : (casLong p law).length = p.casLongSamples := by
  obtain ⟨-, -, -, -, -, -, -, -, hle⟩ := hp
  simp only [casLong, List.length_append, (waveforms p).tone_length]
  omega

/-! ### The four spills -/

theorem cidField_length_le (a max : Nat) (s : State) : (cidField a max s).length ≤ max := by
  simp [cidField]

/-- `longestSpill` bounds each of the spills it is the maximum of. -/
theorem Params.longestSpill_bounds {p : Params} (hp : p.ok) :
    p.codec.bitStart (p.codec.seizureBits + p.codec.preMarkBits + p.longestMessage + p.codec.postMarkBits)
      ≤ p.spillBytes ∧
    p.codec.casLongSamples + p.codec.bitStart (p.codec.preMarkCwBits + p.longestMessage + p.codec.postMarkBits)
      ≤ p.spillBytes ∧
    p.codec.casLongSamples + (p.numMax + 2) * (p.codec.dtmfOnSamples + p.codec.dtmfOffSamples) ≤ p.spillBytes ∧
    p.codec.bitStart (p.codec.seizureBits + p.codec.preMarkBits + 60 + p.codec.postMarkBits) ≤ p.spillBytes := by
  obtain ⟨-, -, -, -, -, -, -, hlongest, -⟩ := hp
  simpa only [Params.longestSpill, max_le_iff] using hlongest

/-- The bits of a Caller-ID message with the parameters of `s`. -/
theorem fskBits_mdmf_length_le (s : State) (kind : SpillKind) :
    (fskBits s.par.codec kind (mdmf s.par.codec (cidNumber s) (cidName s))).length ≤
      (seizure s.par.codec kind).length + preMark s.par.codec kind + s.par.longestMessage + s.par.codec.postMarkBits := by
  have hm := mdmf_length_le s.par.codec (cidNumber s) (cidName s)
  have hnum : (cidNumber s).length ≤ s.par.numMax := cidField_length_le _ _ s
  have hname : (cidName s).length ≤ s.par.nameMax := cidField_length_le _ _ s
  rw [fskBits_length, Params.longestMessage]
  omega

theorem dtmfPayload_length_le (s : State) (a b : Byte) :
    (dtmfSynth s.par.codec (cfgLaw s.cfg) (a :: (cidNumber s).filter isDecimal ++ [b])).length ≤
      (s.par.numMax + 2) * (s.par.codec.dtmfOnSamples + s.par.codec.dtmfOffSamples) := by
  have hnum : (cidNumber s).length ≤ s.par.numMax := cidField_length_le _ _ s
  have hfilter := List.length_filter_le isDecimal (cidNumber s)
  rw [dtmfSynth_length]
  refine Nat.mul_le_mul_right _ ?_
  simp only [List.cons_append, List.length_cons, List.length_append, List.length_nil]
  omega

/-- A payload is an FSK message or a DTMF sequence. -/
theorem cidPayload_length_le (kind : SpillKind) (s : State) :
    (cidPayload kind s).length ≤
      max (s.par.codec.bitStart ((seizure s.par.codec kind).length + preMark s.par.codec kind + s.par.longestMessage
          + s.par.codec.postMarkBits))
        ((s.par.numMax + 2) * (s.par.codec.dtmfOnSamples + s.par.codec.dtmfOffSamples)) := by
  have hbits := bitStart_le_of_le s.par.codec (fskBits_mdmf_length_le s kind)
  rw [le_max_iff, cidPayload]
  cases cidSigOf s.cfg
  case dtmf => exact .inr (dtmfPayload_length_le s _ _)
  all_goals exact .inl (by rw [(waveforms s.par.codec).synth_length]; exact hbits)

theorem cidPayload_length_pos {s : State} (hp : s.par.ok) (kind : SpillKind) : 0 < (cidPayload kind s).length := by
  have hbits (m) : 0 < s.par.codec.bitStart (fskBits s.par.codec kind m).length := bitStart_pos hp.1 (fskBits_pos hp.1 kind m)
  rw [cidPayload]
  cases cidSigOf s.cfg
  case dtmf =>
    obtain ⟨⟨-, -, -, -, hsamples, -⟩, -⟩ := hp
    dsimp only
    rw [dtmfSynth_length]
    exact Nat.mul_pos (by simp) hsamples
  all_goals exact (by rw [(waveforms s.par.codec).synth_length]; exact hbits _)

/-- Every Caller-ID spill fits `SPILL` (R320). -/
theorem cidSamples_length_le {s : State} (hp : s.par.ok) (kind : SpillKind) :
    (cidSamples kind s).length ≤ s.par.spillBytes := by
  obtain ⟨hcid, hcw, hdtmf, -⟩ := Params.longestSpill_bounds hp
  have hpay := cidPayload_length_le kind s
  cases kind
  case cwcid =>
    rw [cidSamples]
    split
    · rw [List.length_append, casLong_length hp.1]
      simp only [seizure, preMark, List.length_nil, Nat.zero_add, le_max_iff] at hpay
      omega
    · obtain ⟨⟨-, -, -, -, -, -, -, -, hle⟩, -⟩ := hp
      rw [casShort_length]
      omega
  all_goals
    simp only [cidSamples, seizure, preMark, alternating_length, le_max_iff] at hpay ⊢
    omega

theorem cidSamples_length_pos {s : State} (hp : s.par.ok) (kind : SpillKind) : 0 < (cidSamples kind s).length := by
  have hpay := cidPayload_length_pos hp kind
  cases kind
  case cwcid =>
    obtain ⟨⟨-, -, -, -, -, -, -, hshort, -⟩, -⟩ := hp
    rw [cidSamples]
    split
    · rw [List.length_append]; omega
    · rw [casShort_length]; exact hshort
  all_goals exact hpay

/-- The length of an MWI spill: six bytes between the preamble and the closing mark (R309, R346). -/
theorem mwiSamples_length (s : State) :
    (mwiSamples s).length = s.par.codec.bitStart
      (s.par.codec.seizureBits + s.par.codec.preMarkBits + 60 + s.par.codec.postMarkBits) := by
  rw [mwiSamples, (waveforms s.par.codec).synth_length, fskBits_length]
  simp [seizure, preMark]

theorem mwiSamples_length_le {s : State} (hp : s.par.ok) : (mwiSamples s).length ≤ s.par.spillBytes := by
  obtain ⟨-, -, -, hmwi⟩ := Params.longestSpill_bounds hp
  rw [mwiSamples_length]
  exact hmwi

theorem mwiSamples_length_pos {s : State} (hp : s.par.ok) : 0 < (mwiSamples s).length := by
  rw [mwiSamples_length]
  exact bitStart_pos hp.1 (by omega)

/-- A length that fits `SPILL` is not cut in `SPILL_LEN`. -/
theorem toNat_ofNat_of_le_spillBytes {p : Params} (hp : p.ok) {n : Nat} (h : n ≤ p.spillBytes) :
    (BitVec.ofNat 16 n).toNat = n := by
  obtain ⟨-, -, -, -, -, hbytes, -⟩ := hp
  rw [BitVec.toNat_ofNat]
  omega

end Sys2Proof.Machine

end

/-! PROOFS. What every rule is made of. A rule is a sequence of micro-operations (`Micro`); `Run` is such a sequence, and
`ConfGood`, `CidInv`, the buffers, the log and the queue are kept because each micro-operation keeps them. Each procedure of
the model has one lemma here that says it is a `Run`.

The index of `Run` keeps apart the rules that bind another resource to Real (`true`) and those that place or hang up the
physical line (`false`), for R26 (f): no rule does the first after the second. A procedure that does neither is a `Run` of
both kinds. -/

section

namespace Sys2Proof.Machine

open Sys2Proof.Config (Answer)

/-! ### Micro-operations -/

/-- A command that places or hangs up the physical line (R26 (f)). -/
def LrCmd.isLoop : LrCmd → Bool
  | .setHook _ => true
  | .dial _ => true
  | _ => false

/-- The conference invariant but for its clause on the time before `CFGDONE`. -/
def ConfGood (s : State) : Prop := ConfInv (s.updLine fun l => { l with configured := true })

/-- Every shadow of a bank is a membership the block commands (R28). -/
def LegalShadows (b : Banks) : Prop := ∀ x, LegalMembership (b.get x).cur

/-- A step of a rule: what it may write in one place, and on what condition. `rebinds` is the index of `Run`. -/
inductive Micro (rebinds : Bool) : State → State → Prop where
  | raise (s : State) (e : ErrCode) : Micro rebinds s (raise e s)
  | tell (s : State) (h : BitVec 4) (i : Ind) (hi : ∀ e, i ≠ .error e) : Micro rebinds s (emit (indWord (lineId s) h i) s)
  | ask (s : State) (line : Byte) (h : BitVec 4) (c : LrCmd)
      (hloop : c.isLoop = true → rebinds = false ∧ line = lineId s ∧ h = realH s) :
      Micro rebinds s (asked (lrWord line h c) s)
  | line (s : State) (f : LineRegs → LineRegs) (hnow : (f s.line).now = s.line.now)
      (hconf : (f s.line).configured = s.line.configured) : Micro rebinds s (s.updLine f)
  | banks (s : State) (f : Banks → Banks) (hres : rebinds = false → (f s.banks).real.res = s.banks.real.res)
      (hcur : LegalShadows s.banks → LegalShadows (f s.banks)) : Micro rebinds s (s.updBanks f)
  | conf (s : State) (f : ConfRegs → ConfRegs) (hgood : ConfGood s → ConfGood (s.updConf f)) :
      Micro rebinds s (s.updConf f)
  | tx (s : State) (f : SpillRegs → SpillRegs) : Micro rebinds s (s.updTx f)
  | rx (s : State) (f : CidRxRegs → CidRxRegs) (hinv : CidInv s → CidInv (s.updRx f)) : Micro rebinds s (s.updRx f)
  | mwi (s : State) (f : MwiRegs → MwiRegs) : Micro rebinds s (s.updMwi f)
  | write (s : State) (sp : Space) (a : Nat) (bs : List Byte) (hhost : sp.hostWritable = false) (hrx : sp ≠ .rxbuf)
      (hfits : s.par.ok → a + bs.length ≤ sp.size s.par) : Micro rebinds s (wr sp a bs s)

/-- A sequence of micro-operations. -/
abbrev Run (rebinds : Bool) : State → State → Prop := Relation.ReflTransGen (Micro rebinds)

/-- What a whole step is: first what binds resources, then what commands the line. -/
def Ran (s t : State) : Prop := ∃ u, Run true s u ∧ Run false u t

variable {r : Bool} {s t u : State}

theorem Micro.run (h : Micro r s t) : Run r s t := .single h

theorem Run.refl : Run r s s := Relation.ReflTransGen.refl

theorem Run.ran (h : Run r s t) : Ran s t := by
  cases r
  case false => exact ⟨s, .refl, h⟩
  case true => exact ⟨t, h, .refl⟩

/-- What every micro-operation keeps, a sequence keeps. -/
theorem Run.keeps {P : State → Prop} (hP : ∀ s t, Micro r s t → P s → P t) (h : Run r s t) (hs : P s) : P t := by
  induction h with
  | refl => exact hs
  | tail _ hstep ih => exact hP _ _ hstep ih

/-- A relation that can be chained holds of a sequence if it holds of each micro-operation. -/
theorem Run.relates {R : State → State → Prop} (hrefl : ∀ s, R s s) (htrans : ∀ s t u, R s t → R t u → R s u)
    (hR : ∀ s t, Micro r s t → R s t) (h : Run r s t) : R s t := by
  induction h with
  | refl => exact hrefl s
  | tail _ hstep ih => exact htrans _ _ _ ih (hR _ _ hstep)

/-! ### Sequencing -/

theorem Run.onlyIf {c : State → Bool} {f : State → State} (h : c s = true → Run r s (f s)) : Run r s (onlyIf c f s) :=
  onlyIf_cases (P := Run r s) h fun _ => .refl

theorem Run.ifElse {c : State → Bool} {f g : State → State} (hf : c s = true → Run r s (f s))
    (hg : c s = false → Run r s (g s)) : Run r s (ifElse c f g s) :=
  ifElse_cases (P := Run r s) hf hg

/-- A command that is no loop command may name any resource. -/
theorem asked_run {c : LrCmd} (hc : c.isLoop = false) (line : Byte) (h : BitVec 4) (s : State) :
    Run r s (asked (lrWord line h c) s) :=
  (Micro.ask s line h c fun hloop => absurd (hc.symm.trans hloop) Bool.false_ne_true).run

theorem lrCase_run {c : LrCmd} (hc : c.isLoop = false) {line : Byte} {h : BitVec 4} {ok notOk : State → State}
    (hok : ∀ t, Run r t (ok t)) (hno : ∀ t, Run r t (notOk t)) : Run r s (lrCase line h c ok notOk s) :=
  lrCase_cases (P := Run r s) ((asked_run hc line h s).trans (hok _)) ((asked_run hc line h s).trans (hno _))

/-- A command to Real's resource may be a loop command. -/
theorem lrRealCase_run {c : LrCmd} {ok notOk : State → State} (hok : ∀ t, Run false t (ok t))
    (hno : ∀ t, Run false t (notOk t)) : Run false s (lrRealCase c ok notOk s) :=
  have hask := (Micro.ask (rebinds := false) s (lineId s) (realH s) c fun _ => ⟨rfl, rfl, rfl⟩).run
  lrCase_cases (P := Run false s) (hask.trans (hok _)) (hask.trans (hno _))

theorem raise_run (e : ErrCode) (s : State) : Run r s (raise e s) := (Micro.raise s e).run

theorem indicate_run {i : Ind} (hi : ∀ e, i ≠ .error e) (s : State) : Run r s (indicate i s) := (Micro.tell s _ i hi).run

theorem indicateLeg_run {i : Ind} (hi : ∀ e, i ≠ .error e) (x : Leg) (s : State) : Run r s (indicateLeg x i s) :=
  (Micro.tell s _ i hi).run

theorem lrTry_run {c : LrCmd} (hc : c.isLoop = false) (line : Byte) (h : BitVec 4) (s : State) :
    Run r s (lrTry line h c s) :=
  lrCase_run hc (fun _ => .refl) (raise_run _)

theorem lrLeg_run {c : LrCmd} (hc : c.isLoop = false) (x : Leg) (s : State) : Run r s (lrLeg x c s) := lrTry_run hc _ _ s

theorem lrReal_run {c : LrCmd} (hc : c.isLoop = false) (s : State) : Run r s (lrReal c s) := lrLeg_run hc .r s

theorem lrReal_run_false (c : LrCmd) (s : State) : Run false s (lrReal c s) :=
  lrRealCase_run (fun _ => .refl) (raise_run _)

/-! ### Updates -/

theorem updLine_run {f : LineRegs → LineRegs} (hnow : (f s.line).now = s.line.now)
    (hconf : (f s.line).configured = s.line.configured) : Run r s (s.updLine f) := (Micro.line s f hnow hconf).run

theorem updTx_run (f : SpillRegs → SpillRegs) (s : State) : Run r s (s.updTx f) := (Micro.tx s f).run

theorem updMwi_run (f : MwiRegs → MwiRegs) (s : State) : Run r s (s.updMwi f) := (Micro.mwi s f).run

theorem updRx_run {f : CidRxRegs → CidRxRegs} (h : CidInv s → CidInv (s.updRx f)) : Run r s (s.updRx f) :=
  (Micro.rx s f h).run

theorem updConf_run {f : ConfRegs → ConfRegs} (h : ConfGood s → ConfGood (s.updConf f)) : Run r s (s.updConf f) :=
  (Micro.conf s f h).run

/-- A bank's update that leaves the resource, or is of another leg than Real, and keeps the shadow legal. -/
theorem updBank_run {x : Leg} {f : Bank → Bank} (hres : x = .r → (f (s.bank x)).res = (s.bank x).res)
    (hcur : LegalMembership (s.bank x).cur → LegalMembership (f (s.bank x)).cur) : Run r s (s.updBank x f) := by
  refine (Micro.banks s (fun b => b.upd x f) (fun _ => ?_) fun h y => ?_).run
  · cases x
    case r => exact hres rfl
    all_goals rfl
  · rw [Banks.upd_get]
    split
    · next hy => exact hy ▸ hcur (h x)
    · exact h y

theorem wr_run {sp : Space} {a : Nat} {bs : List Byte} (hhost : sp.hostWritable = false) (hrx : sp ≠ .rxbuf)
    (h : s.par.ok → a + bs.length ≤ sp.size s.par) : Run r s (wr sp a bs s) := (Micro.write s sp a bs hhost hrx h).run

/-! ### Tones and `goto` (R133) -/

theorem stopTone_run (s : State) : Run r s (stopTone s) :=
  Run.onlyIf fun _ => (lrReal_run rfl s).trans (updLine_run rfl rfl)

theorem startTone_run (t : Tone) (s : State) : Run r s (startTone t s) := (lrReal_run rfl s).trans (updLine_run rfl rfl)

theorem goTo_run (x : CallState) (s : State) : Run r s (goTo x s) :=
  (Run.onlyIf fun _ => stopTone_run s).trans (updLine_run rfl rfl)

end Sys2Proof.Machine

end

/-! PROOFS. The conference rules as sequences of micro-operations: the pass, suspension, and the host commands that change
the topology (spec/42_conference.md). -/

section

namespace Sys2Proof.Machine

open Sys2Proof.Config (slaveSlots)

variable {r : Bool} {s : State}

/-! ### The conference invariant without its clause on the time before `CFGDONE` -/

theorem ConfInv.confGood (h : ConfInv s) : ConfGood s :=
  { h with setup := fun hc => absurd hc (by simp) }

theorem ConfGood.confInv (h : ConfGood s) (hc : s.line.configured = true) : ConfInv s :=
  { h with setup := fun hn => absurd (hc.symm.trans hn) (by simp) }

theorem descNone_legal : LegalMembership descNone := .inl rfl
theorem descConf_legal (n : Byte) : LegalMembership (descConf n) := .inr (.inl ⟨n, rfl⟩)
theorem descMonitor_legal (n : Byte) : LegalMembership (descMonitor n) := .inr (.inr ⟨n, rfl⟩)

theorem ite_legal {c : Prop} [Decidable c] {d e : Descriptor} (hd : LegalMembership d) (he : LegalMembership e) :
    LegalMembership (if c then d else e) := by split <;> assumption

theorem desiredRealOwn_legal (s : State) : LegalMembership (desiredRealOwn s) :=
  ite_legal (descMonitor_legal _) (ite_legal (descConf_legal _) descNone_legal)

theorem desiredLeg_legal (x : Leg) (s : State) : LegalMembership (desiredLeg x s) := by
  cases x
  case r =>
    exact ite_legal descNone_legal (ite_legal (ite_legal (descMonitor_legal _)
      (ite_legal (descConf_legal _) (desiredRealOwn_legal s))) (desiredRealOwn_legal s))
  all_goals exact ite_legal (descConf_legal _) descNone_legal

theorem desiredSlave_legal (s : State) : LegalMembership (desiredSlave s) :=
  ite_legal (descMonitor_legal _) (descConf_legal _)

/-! ### The pass (R222) -/

theorem updateConfno_run (s : State) : Run r s (updateConfno s) := by
  unfold updateConfno
  split
  · exact updConf_run fun h => { h with own := rfl, setup := fun hc => absurd hc (by simp) }
  · split
    · exact updConf_run fun h => { h with own := rfl, setup := fun hc => absurd hc (by simp) }
    · exact .refl

/-- Entry `i` of a slave list; beyond its places it is empty. -/
def listed (v : Vector Slave slaveSlots) (i : Nat) : Slave := v[i]?.getD Slave.empty

theorem slaveAt_eq_listed (i : Nat) (s : State) : slaveAt i s = listed s.conf.slaves i := rfl

theorem listed_setIfInBounds (v : Vector Slave slaveSlots) {i : Nat} (hi : i < slaveSlots) (x : Slave) (j : Nat) :
    listed (v.setIfInBounds i x) j = if i = j then x else listed v j := by
  simp only [listed, Vector.getElem?_setIfInBounds, hi, if_true]
  split <;> simp_all

/-- A new slave list with as many entries in use keeps the conference invariant if it has the properties of one. -/
theorem ConfGood.relist (h : ConfGood s) {v : Vector Slave slaveSlots} {n : BitVec 3} (hfew : n.toNat ≤ s.par.nSlaves)
    (hdistinct : ∀ i j, i < j → j < n.toNat → (listed v i).id ≠ (listed v j).id)
    (hself : ∀ i < n.toNat, (listed v i).id ≠ lineId s) (hunused : ∀ i, n.toNat ≤ i → listed v i = Slave.empty)
    (hlegal : ∀ i, LegalMembership (listed v i).cur) :
    ConfGood (s.updConf fun c => { c with slaves := v, nslaves := n }) :=
  { h with
    few := hfew
    distinct := hdistinct
    notSelf := hself
    unused := hunused
    slaves := hlegal
    setup := fun hc => absurd hc (by simp) }

theorem ConfGood.nslaves_le (h : ConfGood s) : s.conf.nslaves.toNat ≤ slaveSlots := by
  obtain ⟨-, -, hslots, -⟩ := h.par
  exact h.few.trans hslots

/-- An entry in use may get another law, or another legal shadow. -/
theorem ConfGood.setSlave (h : ConfGood s) {i : Nat} (hi : i < s.conf.nslaves.toNat) {x : Slave}
    (hid : x.id = (slaveAt i s).id) (hcur : LegalMembership x.cur) :
    ConfGood (s.updConf fun c => { c with slaves := c.slaves.setIfInBounds i x }) := by
  have hat (j : Nat) := listed_setIfInBounds s.conf.slaves (hi.trans_le h.nslaves_le) x j
  have hids (j : Nat) : (listed (s.conf.slaves.setIfInBounds i x) j).id = (slaveAt j s).id := by
    rw [hat]; split
    · next e => exact e ▸ hid
    · rfl
  refine h.relist h.few (fun a b hab hb => ?_) (fun a ha => ?_) (fun a ha => ?_) fun a => ?_
  · rw [hids, hids]; exact h.distinct a b hab hb
  · rw [hids]; exact h.notSelf a ha
  · rw [hat, if_neg (by rintro rfl; exact absurd hi (Nat.not_lt.mpr ha))]; exact h.unused a ha
  · rw [hat]; split
    · exact hcur
    · exact h.slaves a

theorem reconcileLeg_run (x : Leg) (s : State) : Run r s (reconcileLeg x s) := by
  unfold reconcileLeg
  dsimp only
  split
  · exact lrCase_run rfl (fun _ => updBank_run (fun _ => rfl) fun _ => desiredLeg_legal x s) (raise_run _)
  · exact .refl

theorem reconcileSlave_run (i : Nat) (s : State) : Run r s (reconcileSlave i s) := by
  unfold reconcileSlave
  dsimp only
  split
  · next h =>
    have hi : i < s.conf.nslaves.toNat := by
      simp only [Bool.and_eq_true, decide_eq_true_eq] at h
      exact h.1
    have hask (t : State) (ht : Talk s t) : Run r t (setSlaveCur i (desiredSlave s) t) :=
      updConf_run fun h => h.setSlave (ht.conf ▸ hi) rfl (desiredSlave_legal s)
    exact lrCase_cases (P := Run r s) ((asked_run rfl _ _ s).trans (hask _ (asked_talk _ s)))
      ((asked_run rfl _ _ s).trans (raise_run _ _))
  · exact .refl

theorem reconcilePass_run (s : State) : Run r s (reconcilePass s) :=
  (updateConfno_run s).trans <| (reconcileLeg_run .r _).trans <| (reconcileLeg_run .cw _).trans <|
    (reconcileLeg_run .tw _).trans <| (reconcileSlave_run 0 _).trans <| (reconcileSlave_run 1 _).trans <|
    (reconcileSlave_run 2 _).trans (reconcileSlave_run 3 _)

/-! ### Suspension (R237) -/

theorem suspended_run (s : State) :
    Run r s (s.updConf fun c => { c with saveconf := s.banks.real.cur, confSusp := true }) :=
  updConf_run fun h =>
    { h with
      saved := fun hs => absurd hs (by simp)
      suspended := h.legs .r
      setup := fun hc => absurd hc (by simp) }

theorem unsuspended_run (s : State) :
    Run r s (s.updConf fun c => { c with confSusp := false, saveconf := descNone }) :=
  updConf_run fun h =>
    { h with
      saved := fun _ => rfl
      suspended := descNone_legal
      setup := fun hc => absurd hc (by simp) }

theorem confSuspend_run (s : State) : Run r s (confSuspend s) :=
  Run.onlyIf fun _ => (suspended_run s).trans (reconcilePass_run _)

theorem confRestore_run (s : State) : Run r s (confRestore s) :=
  Run.onlyIf fun _ => (unsuspended_run s).trans (reconcilePass_run _)

/-! ### The slave list (R230, R231) -/

/-- What `slaveIndex` finds is an entry in use with the Line's number, the first one; it finds none if there is none. -/
theorem slaveIndex_some {line : Byte} {i : Nat} (h : slaveIndex line s = some i) :
    i < slaveSlots ∧ i < s.conf.nslaves.toNat ∧ (slaveAt i s).id = line ∧
      ∀ j < i, ¬ (j < s.conf.nslaves.toNat ∧ (slaveAt j s).id = line) := by
  obtain ⟨hp, hi, hmin⟩ := List.find?_range_eq_some.mp h
  simp only [Bool.and_eq_true, decide_eq_true_eq, beq_iff_eq, List.mem_range] at hp hi
  refine ⟨hi, hp.1, hp.2, fun j hj hat => ?_⟩
  have := hmin j hj
  simp [hat.1, hat.2] at this

theorem slaveIndex_none {line : Byte} (h : slaveIndex line s = none) {i : Nat} (hi : i < slaveSlots)
    (hn : i < s.conf.nslaves.toNat) : (slaveAt i s).id ≠ line := by
  have := List.find?_eq_none.mp h i (List.mem_range.mpr hi)
  simpa [hn] using this

/-- A new entry at the end of the list: its number is another one than those listed, and not the Line's own. -/
theorem ConfGood.addSlave (h : ConfGood s) {line : Byte} (hself : line ≠ lineId s) (hnew : slaveIndex line s = none)
    (hroom : s.conf.nslaves.toNat < s.par.nSlaves) (law : Config.Law) :
    ConfGood (s.updConf fun c =>
      { c with
        slaves := c.slaves.setIfInBounds c.nslaves.toNat { id := line, law := law, cur := descNone }
        nslaves := c.nslaves + 1 }) := by
  obtain ⟨-, -, hslots, -⟩ := h.par
  have hlt : s.conf.nslaves.toNat < slaveSlots := hroom.trans_le hslots
  have hsucc : (s.conf.nslaves + 1).toNat = s.conf.nslaves.toNat + 1 := by
    have : s.conf.nslaves.toNat < 4 := hlt
    bv_omega
  have hat (j : Nat) := listed_setIfInBounds s.conf.slaves hlt { id := line, law := law, cur := descNone } j
  have hother (j : Nat) (hj : j < s.conf.nslaves.toNat) : (slaveAt j s).id ≠ line :=
    slaveIndex_none hnew (hj.trans hlt) hj
  refine h.relist (hsucc ▸ hroom) (fun a b hab hb => ?_) (fun a ha => ?_) (fun a ha => ?_) fun a => ?_
  · rw [hsucc] at hb
    rw [hat, hat, if_neg (by omega)]
    split
    · next e => exact hother a (by omega)
    · exact h.distinct a b hab (show b < s.conf.nslaves.toNat by omega)
  · rw [hsucc] at ha
    rw [hat]; split
    · exact hself
    · exact h.notSelf a (show a < s.conf.nslaves.toNat by omega)
  · rw [hsucc] at ha
    rw [hat, if_neg (by omega)]
    exact h.unused a (show s.conf.nslaves.toNat ≤ a by omega)
  · rw [hat]; split
    · exact descNone_legal
    · exact h.slaves a

/-- What `removeSlave` leaves at each place (R231). -/
theorem listed_removeSlave (i n : Nat) (v : Vector Slave slaveSlots) (j : Nat) (hj : j < slaveSlots) :
    listed (removeSlave i n v) j =
      if j < i then listed v j else if j + 1 < n then listed v (j + 1) else if j + 1 = n then Slave.empty
      else listed v j := by
  simp [listed, removeSlave, hj]

/-- The list without one of its entries: the others keep their order. -/
theorem ConfGood.removeSlave (h : ConfGood s) {i : Nat} (hi : i < s.conf.nslaves.toNat) :
    ConfGood (s.updConf fun c =>
      { c with slaves := Machine.removeSlave i c.nslaves.toNat c.slaves, nslaves := c.nslaves - 1 }) := by
  have hslots := h.nslaves_le
  have hpred : (s.conf.nslaves - 1).toNat = s.conf.nslaves.toNat - 1 := by bv_omega
  have hin (j : Nat) (hj : j < s.conf.nslaves.toNat - 1) :
      listed (Machine.removeSlave i s.conf.nslaves.toNat s.conf.slaves) j = slaveAt (if j < i then j else j + 1) s := by
    rw [listed_removeSlave _ _ _ _ (by omega)]
    split
    · rfl
    · rw [if_pos (by omega)]; rfl
  have hout (j : Nat) (hj : s.conf.nslaves.toNat - 1 ≤ j) :
      listed (Machine.removeSlave i s.conf.nslaves.toNat s.conf.slaves) j = Slave.empty := by
    by_cases hlt : j < slaveSlots
    · rw [listed_removeSlave _ _ _ _ hlt, if_neg (by omega), if_neg (by omega)]
      split
      · rfl
      · exact h.unused j (show s.conf.nslaves.toNat ≤ j by omega)
    · simp [listed, hlt]
  refine h.relist (hpred ▸ (Nat.sub_le _ _).trans h.few) (fun a b hab hb => ?_) (fun a ha => ?_) (fun a ha => ?_)
    fun a => ?_
  · rw [hpred] at hb
    rw [hin a (by omega), hin b hb]
    exact h.distinct _ _ (by split <;> split <;> omega)
      (show (if b < i then b else b + 1) < s.conf.nslaves.toNat by split <;> omega)
  · rw [hpred] at ha
    rw [hin a ha]
    exact h.notSelf _ (show (if a < i then a else a + 1) < s.conf.nslaves.toNat by split <;> omega)
  · exact hout a (hpred ▸ ha)
  · by_cases ha : a < s.conf.nslaves.toNat - 1
    · rw [hin a ha]; exact h.slaves _
    · rw [hout a (by omega)]; exact descNone_legal

/-! ### The host commands (R230 to R234) -/

theorem hostSlaveaddBody_run (line : Byte) (law : Bool) (s : State) : Run r s (hostSlaveaddBody line law s) := by
  unfold hostSlaveaddBody
  split
  · exact raise_run _ s
  · next hself =>
    split
    · next i hat =>
      obtain ⟨-, hi, -⟩ := slaveIndex_some hat
      exact (updConf_run fun h => by exact h.setSlave hi rfl (h.slaves i)).trans (reconcilePass_run _)
    · next hnew =>
      split
      · exact raise_run _ s
      · next hroom =>
        exact (updConf_run fun h => by exact h.addSlave hself hnew (Nat.not_le.mp hroom) _).trans (reconcilePass_run _)

theorem hostSlavedelBody_run (line : Byte) (s : State) : Run r s (hostSlavedelBody line s) := by
  unfold hostSlavedelBody
  split
  · exact raise_run _ s
  · next i hat =>
    obtain ⟨-, hi, -⟩ := slaveIndex_some hat
    have htold : Talk s (onlyIf (fun s => (slaveAt i s).cur != descNone)
        (lrTry (slaveAt i s).id hAny (.setConf descNone)) s) :=
      onlyIf_cases (P := Talk s) (fun _ => lrTry_talk _ _ _ s) fun _ => .refl s
    exact (Run.onlyIf fun _ => lrTry_run rfl _ _ s).trans <|
      (updConf_run fun h => h.removeSlave (htold.conf ▸ hi)).trans (reconcilePass_run _)

theorem hostMastersetBody_run (line : Byte) (valid native : Bool) (confno : Byte) (s : State) :
    Run r s (hostMastersetBody line valid native confno s) := by
  unfold hostMastersetBody
  split
  · exact raise_run _ s
  · next hself =>
    exact (updConf_run fun h => by
      exact { h with
        master := fun _ => hself
        noMaster := fun hm => absurd hm (by simp)
        setup := fun hc => absurd hc (by simp) }).trans (reconcilePass_run _)

theorem hostMasterclrBody_run (s : State) : Run r s (hostMasterclrBody s) :=
  (updConf_run fun h =>
    { h with
      master := fun hm => absurd hm (by simp)
      noMaster := fun _ => ⟨rfl, rfl, rfl, rfl⟩
      setup := fun hc => absurd hc (by simp) }).trans (reconcilePass_run _)

theorem hostInconfBody_run (b : Bool) (s : State) : Run r s (hostInconfBody b s) :=
  (updConf_run fun h => { h with setup := fun hc => absurd hc (by simp) }).trans (reconcilePass_run _)

end Sys2Proof.Machine

end

/-! PROOFS. The Caller-ID engine, the MWI engine and the multiplexer as sequences of micro-operations. -/

section

namespace Sys2Proof.Machine

open Sys2Proof.Config (gapSlots)

variable {r : Bool} {s : State}

/-! ### The outbound spill (spec/43_cid_engine.md sections 1 and 2) -/

theorem destroySpill_run (s : State) : Run r s (destroySpill s) := updTx_run _ s

theorem setLinear_run (b : Bool) (s : State) : Run r s (s.updBank .r fun k => { k with linear := b }) :=
  updBank_run (fun _ => rfl) id

theorem restoreLinear_run (s : State) : Run r s (restoreLinear s) :=
  Run.onlyIf fun _ => (lrReal_run rfl s).trans <| (setLinear_run true _).trans (updTx_run _ _)

theorem spillDiscard_run (s : State) : Run r s (spillDiscard s) :=
  (destroySpill_run s).trans <| (updLine_run rfl rfl).trans <| (restoreLinear_run _).trans (unsuspended_run _)

theorem spillStart_run (s : State) : Run r s (spillStart s) :=
  (updTx_run _ s).trans <|
    (Run.onlyIf fun _ => (lrReal_run rfl _).trans (setLinear_run false _)).trans (confSuspend_run _)

theorem spillComplete_run (s : State) : Run r s (spillComplete s) :=
  (destroySpill_run s).trans <| (restoreLinear_run _).trans <| (updLine_run rfl rfl).trans (confRestore_run _)

theorem loadSpill_run {samples : List Byte} (h : s.par.ok → samples.length ≤ s.par.spillBytes) (kind : SpillKind) :
    Run r s (loadSpill kind samples s) :=
  (wr_run rfl (by decide) fun hp => by rw [Nat.zero_add]; exact h hp).trans (updTx_run _ _)

theorem cidGenerate_run (kind : SpillKind) (s : State) : Run r s (cidGenerate kind s) :=
  (spillDiscard_run s).trans (loadSpill_run (fun hp => cidSamples_length_le hp kind) kind)

theorem cwAlert_run (s : State) : Run r s (cwAlert s) :=
  (cidGenerate_run .cwcid s).trans <| (spillStart_run _).trans (updLine_run rfl rfl)

/-! ### The Caller-ID receiver (spec/43_cid_engine.md sections 3 to 5) -/

theorem cidrxReset_run (s : State) : Run r s (cidrxReset s) :=
  updRx_run fun h =>
    { h with
      rxlen := Nat.zero_le _
      dtmflen := Nat.zero_le _
      valid := fun hd => absurd hd (by simp [CidRxRegs.reset])
      ngap := (Nat.zero_le _).trans_lt h.ngap }

theorem clearPrering_run (s : State) : Run r s (clearPrering s) := updLine_run rfl rfl

theorem cidrxBegin_run (s : State) : Run r s (cidrxBegin s) :=
  updRx_run fun h =>
    { h with
      rxlen := Nat.zero_le _
      dtmflen := Nat.zero_le _
      valid := fun hd => absurd hd (by simp) }

/-- The receiver's other registers are its own: a state but `DONE` may be entered. -/
theorem setCidRx_run {st : CidRxState} (hst : st ≠ .done) (s : State) : Run r s (s.updRx fun k => { k with st := st }) :=
  updRx_run fun h => { h with valid := fun hd => absurd hd hst }

theorem cidrxFail_run (e : ErrCode) (s : State) : Run r s (cidrxFail e s) :=
  (setCidRx_run (by decide) s).trans (raise_run e _)

theorem cidConcluded_run (s : State) : Run r s (cidConcluded s) := Run.onlyIf fun _ => updRx_run fun h => { h with }

theorem concludeIfOffered_run (s : State) : Run r s (concludeIfOffered s) := Run.onlyIf fun _ => cidConcluded_run s

theorem cidOutField_length {max : Nat} (hmax : max ≤ 16) (v : List Byte) : (cidOutField max v).length = 17 := by
  simp only [cidOutField, List.length_cons, List.length_append, List.length_take, List.length_replicate]
  omega

theorem cidrxCommit_run (num name : List Byte) (s : State) : Run r s (cidrxCommit num name s) := by
  refine Relation.ReflTransGen.trans (wr_run rfl (by decide) fun hp => ?_) <|
    Relation.ReflTransGen.trans (wr_run rfl (by decide) fun hp => ?_) <| updRx_run fun h => { h with valid := fun _ => rfl }
  · obtain ⟨-, -, -, hnum, -⟩ := hp
    simp [Space.size, cidOutField_length hnum]
  · obtain ⟨-, -, -, -, hname, -⟩ := hp
    have := cidOutField_length hname name
    simp only [wr_par] at this ⊢
    simp [Space.size, this]

theorem dringEval_run (s : State) : Run r s (dringEval s) :=
  updRx_run fun h => { h with ngap := (Nat.zero_le _).trans_lt h.ngap }

theorem sendCidResult_run (s : State) : Run r s (sendCidResult s) :=
  (indicateLeg_run (by simp) .r s).trans (updRx_run fun h => { h with })

theorem cidrxCheckResult_run (s : State) : Run r s (cidrxCheckResult s) := Run.onlyIf fun _ => sendCidResult_run s

theorem cidrxFinalize_run (s : State) : Run r s (cidrxFinalize s) :=
  (Run.onlyIf fun _ => cidrxFail_run _ s).trans <| (Run.onlyIf fun _ => dringEval_run _).trans <|
    Relation.ReflTransGen.trans (updRx_run fun h => by exact { h with }) (Run.onlyIf fun _ => sendCidResult_run _)

theorem cidrxFirstRing_run (s : State) : Run r s (cidrxFirstRing s) :=
  (clearPrering_run s).trans <| (Run.onlyIf fun _ => cidrxFail_run _ _).trans <|
    Relation.ReflTransGen.trans (updRx_run fun h => by exact { h with ngap := (Nat.zero_le _).trans_lt h.ngap }) <|
    (Run.onlyIf fun _ => updRx_run fun h => { h with }).trans <|
    Run.onlyIf fun _ => Run.ifElse (fun _ => setCidRx_run (by decide) _) fun _ => cidrxBegin_run _

/-- A gap that is not the pattern's last is captured and kept. -/
theorem captureGap_cidInv (h : CidInv s) (hlast : (captureGap s).rx.ngap.toNat ≠ s.par.nGaps) : CidInv (captureGap s) := by
  have hgaps : s.par.nGaps ≤ 3 := by obtain ⟨-, -, -, -, -, -, -, -, -, -, -, -, hg⟩ := h.par; exact hg
  have hlt := h.ngap
  have hsucc : (s.rx.ngap + 1).toNat = (s.rx.ngap.toNat + 1) % 4 := by rw [BitVec.toNat_add]; rfl
  refine { h with ngap := ?_ }
  change (s.rx.ngap + 1).toNat < s.par.nGaps
  change (s.rx.ngap + 1).toNat ≠ s.par.nGaps at hlast
  omega

/-- The gap that completes a pattern is gone with its evaluation, in the same update. -/
theorem captureGap_dringEval_run (s : State) : Run r s (dringEval (captureGap s)) :=
  Micro.run (.rx s
    (fun _ => { (captureGap s).rx with
      dringOn := false, dringDone := true, ngap := 0, gap := #v[0, 0, 0]
      ctx := dringContext s.par s.cfg (captureGap s).rx.gap })
    fun h => { h with ngap := (Nat.zero_le _).trans_lt h.ngap })

theorem cidrxNextRing_run (s : State) : Run r s (cidrxNextRing s) := by
  refine Run.ifElse (fun _ => ?_) fun _ => Run.onlyIf fun _ => (cidrxFail_run _ s).trans (cidConcluded_run _)
  refine onlyIf_cases (P := Run r s) (fun _ => ?_) fun hlast => ?_
  · exact (captureGap_dringEval_run s).trans (Run.onlyIf fun _ => cidrxBegin_run _)
  · exact updRx_run fun h => captureGap_cidInv h (by simpa [captureGap] using hlast)

theorem cidrxOnRing_run (first : Bool) (s : State) : Run r s (cidrxOnRing first s) := by
  cases first
  case false => exact (cidrxNextRing_run s).trans (cidrxCheckResult_run _)
  case true => exact (cidrxFirstRing_run s).trans (cidrxCheckResult_run _)

theorem cidrxOnPolarity_run (s : State) : Run r s (cidrxOnPolarity s) :=
  (cidrxReset_run s).trans <| (updLine_run rfl rfl).trans (cidrxBegin_run _)

theorem appendDigit_run (d : Byte) (s : State) : Run r s (appendDigit d s) := by
  refine Run.onlyIf fun hlen => ?_
  have hlen : s.rx.dtmflen.toNat < s.par.numMax := by simpa using hlen
  refine Relation.ReflTransGen.trans (wr_run rfl (by decide) fun hp => ?_) (updRx_run fun h => { h with dtmflen := ?_ })
  · obtain ⟨-, -, -, hnum, -⟩ := hp
    simp only [Space.size, List.length_singleton]
    omega
  · change (s.rx.dtmflen + 1).toNat ≤ s.par.numMax
    have : (s.rx.dtmflen + 1).toNat ≤ s.rx.dtmflen.toNat + 1 := by rw [BitVec.toNat_add]; exact Nat.mod_le _ _
    omega

theorem cidrxDtmf_run (d : Byte) (s : State) : Run r s (cidrxDtmf d s) := by
  refine Relation.ReflTransGen.trans (Run.ifElse (fun _ => ?closed) fun _ => ?opened) (cidrxCheckResult_run _)
  case closed => exact Run.onlyIf fun _ => updRx_run fun h => { h with }
  case opened =>
    refine Run.ifElse (fun _ => ?_) fun _ => Run.ifElse (fun _ => appendDigit_run d s) fun _ => ?_
    · exact (cidrxCommit_run _ _ s).trans (concludeIfOffered_run _)
    · exact (cidrxFail_run _ s).trans (concludeIfOffered_run _)

theorem rxFrame_length (s : State) : (rxFrame s).length = s.par.codec.frameSamples := rdList_length ..

/-- The frame is appended where it fits (R273). -/
theorem cidrxFeed_run (s : State) : Run r s (cidrxFeed s) := by
  unfold cidrxFeed
  split
  · exact (cidrxFail_run _ s).trans (concludeIfOffered_run _)
  · next hfits =>
    have hfed : Run r s (s |> wr .rxacc s.rx.rxlen.toNat (rxFrame s)
        |> State.updRx (fun k => { k with rxlen := k.rxlen + BitVec.ofNat 16 s.par.codec.frameSamples })) := by
      refine Relation.ReflTransGen.trans (wr_run rfl (by decide) fun _ => ?_) (updRx_run fun h => { h with rxlen := ?_ })
      · rw [rxFrame_length]; simp only [Space.size]; omega
      · change (s.rx.rxlen + BitVec.ofNat 16 s.par.codec.frameSamples).toNat ≤ s.par.spillBytes
        have := Nat.mod_le s.par.codec.frameSamples 65536
        have hadd := Nat.mod_le (s.rx.rxlen.toNat + s.par.codec.frameSamples % 65536) 65536
        rw [BitVec.toNat_add, BitVec.toNat_ofNat]
        omega
    dsimp only
    split
    · exact hfed
    · exact hfed.trans <| (cidrxFail_run _ _).trans (concludeIfOffered_run _)
    · exact hfed.trans <| (cidrxCommit_run _ _ _).trans (concludeIfOffered_run _)

theorem energyWatch_run (s : State) : Run r s (energyWatch s) :=
  Run.onlyIf fun _ => (cidrxReset_run s).trans <| updRx_run fun h => { h with valid := fun hd => absurd hd (by simp) }

theorem settleTick_run (s : State) : Run r s (settleTick s) :=
  Relation.ReflTransGen.trans (updRx_run fun h => by exact { h with }) (Run.onlyIf fun _ => cidrxBegin_run _)

theorem ite_run {c : Bool} {f g : State} (hf : Run r s f) (hg : Run r s g) : Run r s (if c then f else g) := by
  split <;> assumption

theorem cidrxTickCase_run (rxvalid : Bool) (s : State) : Run r s (cidrxTickCase rxvalid s) := by
  unfold cidrxTickCase
  cases s.rx.st
  case off => exact ite_run (energyWatch_run s) .refl
  case settle => exact settleTick_run s
  case decoding => exact ite_run (cidrxFeed_run s) .refl
  all_goals exact .refl

theorem cidrxExpire_run (s : State) : Run r s (cidrxExpire s) :=
  (Run.onlyIf fun _ => (cidrxFail_run _ s).trans (concludeIfOffered_run _)).trans <|
    Run.onlyIf fun _ => (cidrxReset_run _).trans (clearPrering_run _)

theorem cidrxCountdown_run (s : State) : Run r s (cidrxCountdown s) :=
  Run.onlyIf fun _ => Relation.ReflTransGen.trans (updRx_run fun h => by exact { h with }) (Run.onlyIf fun _ => cidrxExpire_run _)

theorem cidrxTick_run (rxvalid : Bool) (s : State) : Run r s (cidrxTick rxvalid s) :=
  (cidrxTickCase_run rxvalid s).trans <| (cidrxCountdown_run _).trans (cidrxCheckResult_run _)

/-! ### The MWI engine (spec/45_mwi.md) -/

theorem setMwi_run (x : MwiState) (s : State) : Run r s (setMwi x s) := updMwi_run _ s

theorem mwiEnterSendSpill_run (s : State) : Run r s (mwiEnterSendSpill s) :=
  (spillDiscard_run s).trans <| (loadSpill_run mwiSamples_length_le .mwi).trans <|
    (spillStart_run _).trans (setMwi_run _ _)

theorem mwiTryStart_run (s : State) : Run r s (mwiTryStart s) :=
  Run.onlyIf fun _ => (updMwi_run _ s).trans <| Run.ifElse (fun _ => setMwi_run _ _) fun _ => mwiEnterSendSpill_run _

theorem hostMwinotifyBody_run (b : Bool) (s : State) : Run r s (hostMwinotifyBody b s) :=
  Run.onlyIf fun _ => (updMwi_run _ s).trans <| Run.onlyIf fun _ => (updMwi_run _ _).trans (mwiTryStart_run _)

theorem mwiGiveUp_run (s : State) : Run r s (mwiGiveUp s) := (updMwi_run _ s).trans (indicate_run (by simp) _)

theorem mwiSendAlertTick_run (s : State) : Run false s (mwiSendAlertTick s) :=
  lrRealCase_run (setMwi_run _) fun _ => (raise_run _ _).trans (mwiGiveUp_run _)

theorem mwiRingOff_run (s : State) : Run false s (mwiRingOff s) := (lrReal_run_false _ s).trans (updMwi_run _ _)

theorem mwiTick_run (s : State) : Run false s (mwiTick s) := by
  unfold mwiTick
  cases s.mwi.st
  case null => exact .refl
  case sendAlert => exact mwiSendAlertTick_run s
  case alertWait => exact .refl
  case pause => exact Run.onlyIf fun _ => mwiEnterSendSpill_run s
  case sendSpill => exact Run.onlyIf fun _ => setMwi_run _ s
  case cleanup => exact (indicate_run (by simp) s).trans (setMwi_run _ _)
  case done => exact (setMwi_run _ s).trans (mwiTryStart_run _)

theorem mwiAbort_run (s : State) : Run false s (mwiAbort s) :=
  (Run.onlyIf fun _ => lrReal_run_false _ s).trans <| (spillDiscard_run _).trans <|
    (reconcilePass_run _).trans (mwiGiveUp_run _)

theorem mwiAbortIfActive_run (s : State) : Run false s (mwiAbortIfActive s) := by
  unfold mwiAbortIfActive
  cases s.mwi.st
  case null | done => exact .refl
  case cleanup => exact (setMwi_run _ s).trans (indicate_run (by simp) _)
  all_goals exact mwiAbort_run s

/-! ### The multiplexer (spec/41_subchannel_mux.md section 1) -/

/-- Emptying a bank other than Real's. -/
theorem releaseLeg_run {x : Leg} (hx : x ≠ .r) (s : State) : Run r s (releaseLeg x s) :=
  (Run.onlyIf fun _ => lrLeg_run rfl x s).trans <| (Run.onlyIf fun _ => lrLeg_run rfl x _).trans <|
    (lrLeg_run rfl x _).trans (updBank_run (fun h => absurd h hx) fun _ => descNone_legal)

/-- A bank's update in a rule that binds resources. -/
theorem updBank_run_true {x : Leg} {f : Bank → Bank}
    (hcur : LegalMembership (s.bank x).cur → LegalMembership (f (s.bank x)).cur) : Run true s (s.updBank x f) :=
  Micro.run (.banks s (fun b => b.upd x f) (fun h => absurd h (by simp)) fun h y => by
    rw [Banks.upd_get]
    split
    · next hy => exact hy ▸ hcur (h x)
    · exact h y)

theorem exchangeBanks_run (a b : Leg) (s : State) : Run true s (exchangeBanks a b s) := by
  refine Micro.run (.banks s (fun k => (k.upd a fun x => { s.bank b with pend := x.pend }).upd b
    fun x => { s.bank a with pend := x.pend }) (fun h => absurd h (by simp)) fun h y => ?_)
  rw [Banks.upd_get, Banks.upd_get]
  split
  · exact h a
  · split
    · exact h b
    · exact h y

theorem doSwap_run (a b : Leg) (s : State) : Run true s (doSwap a b s) :=
  (Run.onlyIf fun _ => (stopTone_run s).trans (spillDiscard_run _)).trans (exchangeBanks_run a b _)

theorem allocLeg_run {x : Leg} {ok conflict failed : State → State} (hok : ∀ t, Run true t (ok t))
    (hconflict : Run true s (conflict s)) (hfailed : ∀ t, Run true t (failed t)) :
    Run true s (allocLeg x ok conflict failed s) := by
  unfold allocLeg
  split
  · exact hconflict
  · exact lrCase_run rfl (fun t => (updBank_run_true fun _ => descNone_legal).trans (hok _)) hfailed

theorem withLeg_run {leg : BitVec 2} {body : Leg → State → State} (h : ∀ x, Run r s (body x s)) :
    Run r s (withLeg leg body s) :=
  withLeg_cases (P := Run r s) (fun x _ => h x) fun _ => raise_run _ s

theorem hostAllocBody_run (leg : BitVec 2) (s : State) : Run true s (hostAllocBody leg s) :=
  withLeg_run fun _ => allocLeg_run (fun _ => .refl) (raise_run _ s) (raise_run _)

theorem hostReleaseBody_run (leg : BitVec 2) (s : State) : Run r s (hostReleaseBody leg s) := by
  refine withLeg_run fun x => ?_
  split
  · exact raise_run _ s
  · next hx => exact ite_run (raise_run _ s) ((releaseLeg_run hx s).trans (reconcilePass_run _))

theorem hostSwapBody_run (a b : BitVec 2) (s : State) : Run true s (hostSwapBody a b s) := by
  refine withLeg_run fun x => withLeg_run fun y => ?_
  split
  · exact .refl
  · exact ite_run (raise_run _ s) ((doSwap_run x y s).trans (reconcilePass_run _))

end Sys2Proof.Machine

end

/-! PROOFS. The call state machine, call control, flashes, line events and the timebase as sequences of
micro-operations, and what each event word is (`exec_cases`). -/

section

namespace Sys2Proof.Machine

variable {r : Bool} {s t : State}

/-! ### Line procedures (R136, R137, R145, R257, R372) -/

theorem notifyHangup_run (x : Leg) (cause : Cause) (s : State) : Run r s (notifyHangup x cause s) :=
  indicateLeg_run (by simp) x s

theorem notifyIfOwned_run (cause : Cause) (skip : Option Leg) (x : Leg) (s : State) :
    Run r s (notifyIfOwned cause skip x s) := Run.onlyIf fun _ => notifyHangup_run x cause s

theorem applyDefaults_run (s : State) : Run r s (applyDefaults s) :=
  (lrReal_run rfl s).trans <| (lrReal_run rfl _).trans (lrReal_run rfl _)

theorem hungUp_run (s : State) : Run r s (s.updBank .r Bank.hungUp) := updBank_run (fun _ => rfl) id

theorem lineDown_run (cause : Cause) (skip : Option Leg) (s : State) : Run false s (lineDown cause skip s) :=
  (notifyIfOwned_run cause skip .r s).trans <| (notifyIfOwned_run cause skip .cw _).trans <|
    (notifyIfOwned_run cause skip .tw _).trans <| (stopTone_run _).trans <|
    (Run.onlyIf fun _ => lrReal_run_false _ _).trans <| (spillDiscard_run _).trans <|
    (Run.onlyIf fun _ => releaseLeg_run (by decide) _).trans <|
    (Run.onlyIf fun _ => releaseLeg_run (by decide) _).trans <| (hungUp_run _).trans <|
    (lrReal_run_false _ _).trans <| (updLine_run rfl rfl).trans <| (applyDefaults_run _).trans <|
    (Run.onlyIf fun _ => (lrReal_run rfl _).trans (setLinear_run false _)).trans <| (updLine_run rfl rfl).trans <|
    (cidrxReset_run _).trans <| (updLine_run rfl rfl).trans (reconcilePass_run _)

theorem establish_run (s : State) : Run r s (establish s) :=
  (goTo_run _ s).trans <| (updLine_run rfl rfl).trans (reconcilePass_run _)

theorem pendReal_run (p : PendBit) (s : State) : Run r s (pendReal p s) := updBank_run (fun _ => rfl) id

theorem ownReal_run (tag : Byte) (s : State) : Run r s (s.updBank .r (Bank.own tag)) := updBank_run (fun _ => rfl) id

theorem ringBurstFirst_run (s : State) : Run false s (ringBurstFirst s) :=
  (mwiAbortIfActive_run s).trans <| (goTo_run _ _).trans <| (updLine_run rfl rfl).trans <| (ownReal_run 0 _).trans <|
    Relation.ReflTransGen.trans (updRx_run fun h => by exact { h with }) <| (updLine_run rfl rfl).trans <|
    (indicateLeg_run (by simp) .r _).trans <| (cidrxOnRing_run true _).trans <| updRx_run fun h => by exact { h with }

theorem ringBurstNext_run (s : State) : Run r s (ringBurstNext s) :=
  Relation.ReflTransGen.trans (updRx_run fun h => by exact { h with }) <| (updLine_run rfl rfl).trans <|
    (cidrxOnRing_run false _).trans <| updRx_run fun h => by exact { h with }

theorem ringBurst_run (s : State) : Run false s (ringBurst s) :=
  Run.ifElse (fun _ => ringBurstFirst_run s) fun _ => ringBurstNext_run s

theorem fatalLoss_run (s : State) : Run false s (fatalLoss s) :=
  (raise_run _ s).trans <| (mwiAbortIfActive_run _).trans <| Run.ifElse
    (fun _ => (spillDiscard_run _).trans <| (cidrxReset_run _).trans <| (clearPrering_run _).trans (reconcilePass_run _))
    fun _ => lineDown_run _ _ _

theorem completeIfSent_run (s : State) : Run r s (completeIfSent s) := Run.onlyIf fun _ => spillComplete_run s

theorem spillTx_run (s : State) : Run false s (spillTx s) := by
  unfold spillTx
  split
  · exact completeIfSent_run s
  · exact lrRealCase_run (fun t => (updTx_run _ t).trans (completeIfSent_run _)) fatalLoss_run

/-! ### Call control (spec/47_host_commands.md section 3) -/

theorem refuseCall_run (e : ErrCode) (tag : Byte) (s : State) : Run r s (refuseCall e tag s) :=
  (raise_run e s).trans (indicate_run (by simp) _)

theorem callClear_run (s : State) : Run r s (callClear s) :=
  (cidrxReset_run s).trans <| (clearPrering_run _).trans (updLine_run rfl rfl)

theorem callRingAccepted_run (tag : Byte) (s : State) : Run r s (callRingAccepted tag s) :=
  (callClear_run s).trans <| (Run.onlyIf fun _ => cidGenerate_run .cid _).trans <| (updLine_run rfl rfl).trans <|
    (ownReal_run tag _).trans (pendReal_run _ _)

theorem callDigits_run (n : Byte) (s : State) : Run false s (callDigits n s) := by
  unfold callDigits
  split
  · exact .refl
  · split
    · exact updLine_run rfl rfl
    · exact lrRealCase_run (fun _ => updLine_run rfl rfl) fun t => (raise_run _ t).trans (pendReal_run _ _)

theorem callDialAccepted_run (n tag : Byte) (s : State) : Run false s (callDialAccepted n tag s) :=
  (callClear_run s).trans <| (updLine_run rfl rfl).trans <| (ownReal_run tag _).trans (callDigits_run n _)

theorem hostCallBody_run (mode : Bool) (n tag : Byte) (s : State) : Run false s (hostCallBody mode n tag s) := by
  unfold hostCallBody
  refine ite_run (refuseCall_run _ tag s) ((mwiAbortIfActive_run s).trans ?_)
  cases mode
  case false => exact lrRealCase_run (callRingAccepted_run tag) (refuseCall_run _ tag)
  case true => exact lrRealCase_run (callDialAccepted_run n tag) (refuseCall_run _ tag)

theorem upAnswer_run (s : State) : Run false s (upAnswer s) :=
  lrRealCase_run (fun t => (cidrxFinalize_run t).trans <| (updLine_run rfl rfl).trans (establish_run _)) (raise_run _)

theorem upThreeWay_run (s : State) : Run r s (upThreeWay s) :=
  (goTo_run _ s).trans <| (updLine_run rfl rfl).trans (reconcilePass_run _)

theorem upOffered_run (s : State) : Run false s (upOffered s) := by
  unfold upOffered
  cases s.line.calldir
  case inbound => exact ite_run (establish_run s) (upAnswer_run s)
  case outDial => exact establish_run s
  all_goals exact raise_run _ s

theorem upCase_run (s : State) : Run false s (upCase s) := by
  unfold upCase
  cases s.line.st
  case offered => exact upOffered_run s
  case threeWayDialing => exact upThreeWay_run s
  all_goals exact raise_run _ s

theorem hostUpBody_run (leg : BitVec 2) (s : State) : Run false s (hostUpBody leg s) :=
  withLeg_run fun x => by
    split
    · exact raise_run _ s
    · exact upCase_run s

theorem setIn3way_run (b : Bool) (x : Leg) (s : State) : Run r s (s.updBank x fun k => { k with in3way := b }) :=
  updBank_run (fun _ => rfl) id

theorem takeover_run {y : Leg} (hy : y ≠ .r) (s : State) : Run true s (takeover y s) :=
  (hungUp_run s).trans <| (doSwap_run .r y _).trans <| (releaseLeg_run hy _).trans <| (setIn3way_run false .r _).trans <|
    (updLine_run rfl rfl).trans <| (Run.onlyIf fun _ => pendReal_run _ _).trans <|
    (Run.onlyIf fun _ => pendReal_run _ _).trans <| (goTo_run _ _).trans <| (updLine_run rfl rfl).trans
    (reconcilePass_run _)

theorem hangupReal_ran (s : State) : Ran s (hangupReal s) := by
  unfold hangupReal
  split
  · exact (takeover_run (by decide) s).ran
  · split
    · exact (takeover_run (by decide) s).ran
    · exact (lineDown_run _ _ s).ran

theorem hangupCw_run (s : State) : Run r s (hangupCw s) :=
  (Run.onlyIf fun _ => spillDiscard_run s).trans <| (updLine_run rfl rfl).trans <|
    (releaseLeg_run (by decide) _).trans <| (Run.onlyIf fun _ => goTo_run _ _).trans (reconcilePass_run _)

theorem hangupTwDialing_run (s : State) : Run r s (hangupTwDialing s) :=
  (goTo_run _ s).trans <| (updLine_run rfl rfl).trans (Run.onlyIf fun _ => startTone_run _ _)

theorem hangupTw_run (s : State) : Run r s (hangupTw s) :=
  (releaseLeg_run (by decide) s).trans <| (setIn3way_run false .r _).trans <|
    (Run.onlyIf fun _ => hangupTwDialing_run _).trans (reconcilePass_run _)

theorem hostHangupBody_ran (leg : BitVec 2) (s : State) : Ran s (hostHangupBody leg s) := by
  refine withLeg_cases (P := Ran s) (fun x _ => ?_) fun _ => (raise_run (r := true) _ s).ran
  split
  · exact (raise_run (r := true) _ s).ran
  · cases x
    case r => exact hangupReal_ran s
    case cw => exact (hangupCw_run (r := true) s).ran
    case tw => exact (hangupTw_run (r := true) s).ran

theorem refuseCw_run (e : ErrCode) (tag : Byte) (s : State) : Run r s (refuseCw e tag s) :=
  (raise_run e s).trans (indicate_run (by simp) _)

theorem cwofferAccepted_run (tag : Byte) (s : State) : Run r s (cwofferAccepted tag s) :=
  Relation.ReflTransGen.trans (updBank_run (fun _ => rfl) id) (cwAlert_run _)

theorem hostCwofferBody_run (tag : Byte) (s : State) : Run true s (hostCwofferBody tag s) := by
  unfold hostCwofferBody
  exact ite_run (refuseCw_run _ tag s) <| ite_run (refuseCw_run _ tag s) <|
    allocLeg_run (cwofferAccepted_run tag) (refuseCw_run _ tag s) (refuseCw_run _ tag)

theorem hostPollBody_run (leg : BitVec 2) (s : State) : Run r s (hostPollBody leg s) :=
  withLeg_run fun x => (indicateLeg_run (by simp) x s).trans (updBank_run (fun _ => rfl) id)

theorem hostSetlinearBody_run (leg : BitVec 2) (b : Bool) (s : State) : Run r s (hostSetlinearBody leg b s) :=
  withLeg_run fun _ => ite_run (raise_run _ s) <| ite_run (updTx_run _ s) <|
    ite_run (lrCase_run rfl (fun _ => updBank_run (fun _ => rfl) id) (raise_run _)) .refl

theorem hostIndicateBody_run (cond : BitVec 2) (s : State) : Run r s (hostIndicateBody cond s) :=
  ite_run (raise_run _ s) ((stopTone_run s).trans (Run.onlyIf fun _ => startTone_run _ _))

/-! ### Flashes (spec/41_subchannel_mux.md section 2) -/

theorem stampFlash_run (s : State) : Run r s (stampFlash s) := updLine_run rfl rfl

theorem curlegReal_run (s : State) : Run r s (curlegReal s) := updLine_run rfl rfl

theorem setPend_run (p : PendBit) (x : Leg) (s : State) : Run r s (s.updBank x (Bank.setPend p)) :=
  updBank_run (fun _ => rfl) id

theorem flashSwap_run (s : State) : Run true s (flashSwap s) :=
  (stampFlash_run s).trans <| (doSwap_run .r .cw _).trans <| (updLine_run rfl rfl).trans <|
    (setPend_run .needHold .cw _).trans <| (pendReal_run _ _).trans <| (goTo_run _ _).trans <|
    (curlegReal_run _).trans (reconcilePass_run _)

theorem flashBuildAllocated_run (s : State) : Run true s (flashBuildAllocated s) :=
  (stampFlash_run s).trans <| (doSwap_run .r .tw _).trans <| (goTo_run _ _).trans <| (startTone_run _ _).trans <|
    (ownReal_run 0 _).trans <| (indicateLeg_run (by simp) .r _).trans <| (setPend_run .needHold .tw _).trans <|
    (curlegReal_run _).trans (reconcilePass_run _)

theorem flashBuild_run (s : State) : Run true s (flashBuild s) :=
  ite_run (raise_run _ s) (allocLeg_run flashBuildAllocated_run (raise_run _ s) (raise_run _))

theorem flashMerge_run (s : State) : Run true s (flashMerge s) :=
  (stampFlash_run s).trans <| (setIn3way_run true .r _).trans <| (setIn3way_run true .tw _).trans <|
    (doSwap_run .r .tw _).trans <| (pendReal_run _ _).trans <| (curlegReal_run _).trans (reconcilePass_run _)

theorem flashDrop_run (s : State) : Run r s (flashDrop s) :=
  (stampFlash_run s).trans <| (notifyHangup_run .tw _ _).trans <| (releaseLeg_run (by decide) _).trans <|
    (setIn3way_run false .r _).trans (reconcilePass_run _)

theorem flashUndo_run (s : State) : Run true s (flashUndo s) :=
  (stampFlash_run s).trans <| (notifyHangup_run .r _ _).trans <|
    Relation.ReflTransGen.trans (updBank_run (f := Bank.disown) (fun _ => rfl) id) <| (doSwap_run .r .tw _).trans <|
    (releaseLeg_run (by decide) _).trans <| (goTo_run _ _).trans <| (pendReal_run _ _).trans <|
    (curlegReal_run _).trans (reconcilePass_run _)

theorem ite_ran {c : Bool} {f g : State} (hf : Ran s f) (hg : Ran s g) : Ran s (if c then f else g) := by
  split <;> assumption

theorem flashDispatch_ran (s : State) : Ran s (flashDispatch s) := by
  unfold flashDispatch
  exact ite_ran (raise_run (r := true) _ s).ran <| ite_ran (flashSwap_run s).ran <|
    ite_ran (ite_ran (lineDown_run _ _ s).ran <| ite_ran (flashUndo_run s).ran <|
      ite_ran (flashDrop_run (r := true) s).ran (flashMerge_run s).ran) (flashBuild_run s).ran

theorem trunkWink_run (s : State) : Run false s (trunkWink s) :=
  ite_run (lrRealCase_run (fun _ => updLine_run rfl rfl) (raise_run _)) (ite_run (pendReal_run _ s) (raise_run _ s))

theorem winkflash_ran (s : State) : Ran s (winkflash s) := by
  unfold winkflash
  cases familyOf s.cfg
  case loop => exact flashDispatch_ran s
  case trunk => exact (trunkWink_run s).ran
  case radio => exact (Run.refl (r := true)).ran

/-! ### Line events (spec/40_hook_events.md) -/

theorem setHookReg_run (b : Bool) (s : State) : Run r s (setHookReg b s) := updLine_run rfl rfl

/-- The moved call rings the station only after it is Real's (R141). -/
theorem onhookRingBack_ran (s : State) : Ran s (onhookRingBack s) :=
  ⟨_, (notifyHangup_run .r _ s).trans <|
      (Run.onlyIf fun _ => (Run.onlyIf fun _ => notifyHangup_run .tw _ _).trans (releaseLeg_run (by decide) _)).trans <|
      (hungUp_run _).trans <| (spillDiscard_run _).trans <| (updLine_run rfl rfl).trans <| (doSwap_run .r .cw _).trans <|
      (releaseLeg_run (by decide) _).trans <| (goTo_run _ _).trans (updLine_run rfl rfl),
    (lrReal_run_false _ _).trans <| (pendReal_run _ _).trans <| (Run.onlyIf fun _ => pendReal_run _ _).trans
      (reconcilePass_run _)⟩

theorem Ran.after {u : State} (h : Run true s u) (k : Ran u t) : Ran s t := by
  obtain ⟨v, huv, hvt⟩ := k
  exact ⟨v, h.trans huv, hvt⟩

theorem onhookInCall_ran (s : State) : Ran s (onhookInCall s) :=
  ite_ran (onhookRingBack_ran s) (lineDown_run _ _ s).ran

theorem onhookOffered_run (b : Bool) (s : State) : Run false s (onhookOffered b s) :=
  ite_run (lineDown_run _ _ s) (raise_run _ s)

theorem onhookCase_ran (b : Bool) (s : State) : Ran s (onhookCase b s) := by
  unfold onhookCase
  cases s.line.st
  case idle | releasing => exact (Run.refl (r := true)).ran
  case offered => exact (onhookOffered_run b s).ran
  all_goals exact onhookInCall_ran s

theorem onhookBody_ran (s : State) : Ran s (onhookBody s) := .after (setHookReg_run false s) (onhookCase_ran _ _)

theorem seize_run (s : State) : Run r s (seize s) :=
  (setHookReg_run true s).trans <| (cidrxReset_run _).trans <| (clearPrering_run _).trans <| (goTo_run _ _).trans <|
    (updLine_run rfl rfl).trans <| (ownReal_run 0 _).trans <| (curlegReal_run _).trans <| (startTone_run _ _).trans
    (indicateLeg_run (by simp) .r _)

theorem answerOffered_run (s : State) : Run r s (answerOffered s) :=
  ite_run ((setHookReg_run true s).trans <| (spillDiscard_run _).trans <| (establish_run _).trans (pendReal_run _ _)) <|
    ite_run ((setHookReg_run true s).trans <| (establish_run _).trans (pendReal_run _ _)) (raise_run _ s)

theorem offhookCase_run (s : State) : Run r s (offhookCase s) := by
  unfold offhookCase
  cases s.line.st
  case idle => exact seize_run s
  case offered => exact answerOffered_run s
  case releasing => exact .refl
  all_goals exact raise_run _ s

theorem offhookBody_run (s : State) : Run false s (offhookBody s) := (mwiAbortIfActive_run s).trans (offhookCase_run _)

theorem ringoffhookBody_run (s : State) : Run false s (ringoffhookBody s) :=
  (mwiAbortIfActive_run s).trans (Run.ifElse (fun _ => ringBurst_run _) fun _ => offhookCase_run _)

theorem ringbeginBody_run (s : State) : Run false s (ringbeginBody s) :=
  Run.ifElse (fun _ => ringBurst_run s) fun _ => raise_run _ s

theorem ringoffBody_run (s : State) : Run false s (ringoffBody s) :=
  ite_run (mwiRingOff_run s) (ite_run (spillStart_run s) .refl)

theorem dialcompleteBody_run (s : State) : Run r s (dialcompleteBody s) :=
  ite_run (raise_run _ s) ((updLine_run rfl rfl).trans (Run.onlyIf fun _ => pendReal_run _ _))

theorem polarityCase_run (s : State) : Run false s (polarityCase s) := by
  unfold polarityCase
  cases s.line.st
  case idle => exact Run.onlyIf fun _ => cidrxOnPolarity_run s
  case offered => exact Run.onlyIf fun _ => (establish_run s).trans (pendReal_run _ _)
  case releasing => exact .refl
  all_goals exact Run.onlyIf fun _ => lineDown_run _ _ s

theorem polarityBody_run (s : State) : Run false s (polarityBody s) := (updLine_run rfl rfl).trans (polarityCase_run _)

theorem setAlarm_run (b : Bool) (s : State) : Run r s (setAlarm b s) := updLine_run rfl rfl

theorem alarmBody_run (s : State) : Run false s (alarmBody s) :=
  (setAlarm_run true s).trans <| (mwiAbortIfActive_run _).trans <| Run.ifElse (fun _ => lineDown_run _ _ _) fun _ =>
    Run.onlyIf fun _ => (cidrxReset_run _).trans (clearPrering_run _)

theorem deliverDigit_run (d : Byte) (pulse : Bool) (s : State) : Run r s (deliverDigit d pulse s) :=
  ite_run (indicateLeg_run (by simp) .r s) (raise_run _ s)

theorem pulsedigitBody_run (d : Byte) (s : State) : Run r s (pulsedigitBody d s) :=
  ite_run (raise_run _ s) (deliverDigit_run d true s)

theorem dtmfdigitBody_run (d : Byte) (s : State) : Run r s (dtmfdigitBody d s) :=
  ite_run (raise_run _ s) <| ite_run .refl <| ite_run (cidrxDtmf_run d s) (deliverDigit_run d false s)

/-! ### The timebase (spec/46_monitor_timebase.md) -/

theorem guardTick_run (s : State) : Run r s (guardTick s) := Run.onlyIf fun _ => updLine_run rfl rfl

theorem ringTick_run (s : State) : Run false s (ringTick s) :=
  Run.onlyIf fun _ => (updLine_run rfl rfl).trans (Run.onlyIf fun _ => lineDown_run _ _ _)

theorem postwinTick_run (s : State) : Run r s (postwinTick s) := updLine_run rfl rfl

theorem cwrepeatTick_run (s : State) : Run r s (cwrepeatTick s) :=
  Run.onlyIf fun _ => (updLine_run rfl rfl).trans (Run.onlyIf fun _ => cwAlert_run _)

theorem spillTick_run (txready : Bool) (s : State) : Run false s (spillTick txready s) := Run.onlyIf fun _ => spillTx_run s

theorem housekeepingTick_run (s : State) : Run r s (housekeepingTick s) :=
  Relation.ReflTransGen.trans (updLine_run rfl rfl) <|
    Run.onlyIf fun _ => (updLine_run rfl rfl).trans (mwiTryStart_run _)

/-- What a `TICK` begins with: the frame received, and the clock (R73, R360 part 1). -/
def tickStart (rxvalid : Bool) (s : State) : State := s |> onlyIf (fun _ => rxvalid) receiveFrame |> advanceNow

theorem tickParts_run (rxvalid txready : Bool) (s : State) : Run false (advanceNow s) (tickParts rxvalid txready s) :=
  (guardTick_run _).trans <| (ringTick_run _).trans <| (postwinTick_run _).trans <| (cwrepeatTick_run _).trans <|
    (spillTick_run txready _).trans <| (cidrxTick_run rxvalid _).trans <| (mwiTick_run _).trans (housekeepingTick_run _)

theorem tickBody_configured (h : s.line.configured = true) (rxvalid txready : Bool) :
    tickBody rxvalid txready s = tickParts rxvalid txready (onlyIf (fun _ => rxvalid) receiveFrame s) := by
  simp [tickBody, h]

theorem tickBody_unconfigured (h : s.line.configured = false) (rxvalid txready : Bool) :
    tickBody rxvalid txready s = s := by
  simp [tickBody, h]

theorem tickBody_run (h : s.line.configured = true) (rxvalid txready : Bool) :
    Run false (tickStart rxvalid s) (tickBody rxvalid txready s) := by
  rw [tickBody_configured h]
  exact tickParts_run rxvalid txready _

/-! ### Every event word -/

/-- A step that is only micro-operations; before `CFGDONE` it only talks. -/
structure Plain (s t : State) : Prop where
  ran : Ran s t
  setup : s.line.configured = false → Talk s t

/-- What an event word other than those that configure or reset the Line, write a host buffer, or tick does. -/
inductive ExecCase (i : Instr) (s t : State) : Prop where
  | plain (h : Plain s t)
  | tick (rxvalid txready : Bool) (hi : i = .timeTick rxvalid txready) (hc : s.line.configured = true)
      (h : Run false (tickStart rxvalid s) t)
  | reset (hi : i = .hostReset) (h : t = hostResetBody s)
  | cfgwr (reg : Byte) (value : Half) (hi : i = .hostCfgwr reg value) (hc : s.line.configured = false)
      (hwf : wfCfg reg value = true) (h : t = s.updCfg fun c => c.setIfInBounds reg.toNat (value &&& implementedMask reg))
  | cfgdone (hi : i = .hostCfgdone) (hc : s.line.configured = false) (u : State) (hu : Run false s u)
      (h : Run false (u.updLine fun l => { l with configured := true }) t)
  | memwr (space : BitVec 3) (addr data : Byte) (hi : i = .hostMemwr space addr data) (sp : Space)
      (hsp : sp.hostWritable = true) (haddr : addr.toNat < sp.size s.par) (h : t = wr sp addr.toNat [data] s)

theorem raise_plain (e : ErrCode) (s : State) : Plain s (raise e s) :=
  ⟨(raise_run (r := true) e s).ran, fun _ => raise_talk e s⟩

theorem plain_of_configured (hc : s.line.configured = true) (h : Ran s t) : Plain s t :=
  ⟨h, fun hn => absurd (hc.symm.trans hn) (by simp)⟩

theorem plain_refl (s : State) : Plain s s := ⟨(Run.refl (r := true)).ran, fun _ => .refl s⟩

theorem lineEntry_plain {a b : Bool} {body : State → State} (h : Ran s (body s)) : Plain s (lineEntry a b body s) :=
  lineEntry_cases (P := Plain s) (fun hc => plain_of_configured hc h) (raise_plain _ s) (raise_plain _ s)

theorem hostEntry_plain {body : State → State} (h : Ran s (body s)) : Plain s (hostEntry body s) :=
  hostEntry_cases (P := Plain s) (fun hc => plain_of_configured hc h) (raise_plain _ s)

theorem noneEvent_plain (s : State) : Plain s (noneEvent s) := by
  unfold noneEvent
  split
  · exact raise_plain _ s
  · exact plain_refl s

theorem indicate_plain {i : Ind} (hi : ∀ e, i ≠ .error e) (s : State) : Plain s (indicate i s) :=
  ⟨(indicate_run (r := true) hi s).ran, fun _ => indicate_talk i s⟩

theorem hostMemrdBody_plain (space : BitVec 3) (addr : Half) (s : State) : Plain s (hostMemrdBody space addr s) := by
  unfold hostMemrdBody
  split
  · split
    · exact indicate_plain (by simp) s
    · exact raise_plain _ s
  · exact raise_plain _ s

theorem lrfatalBody_plain (s : State) : Plain s (lrfatalBody s) := by
  unfold lrfatalBody
  split
  · exact plain_refl s
  · next hc => exact plain_of_configured (by simpa using hc) (fatalLoss_run s).ran

theorem hostCfgwrBody_execCase (reg : Byte) (value : Half) (s : State) :
    ExecCase (.hostCfgwr reg value) s (hostCfgwrBody reg value s) := by
  cases hc : s.line.configured
  case true => rw [hostCfgwrBody_locked hc]; exact .plain (raise_plain _ s)
  case false =>
    by_cases hreg : reg < 0x40
    · rw [hostCfgwrBody_inRange hc hreg]
      split
      · next hwf => exact .cfgwr reg value rfl hc hwf rfl
      · exact .plain (raise_plain _ s)
    · rw [hostCfgwrBody_outOfRange hc (BitVec.not_lt.mp hreg)]
      exact .plain (raise_plain _ s)

theorem hostMemwrBody_execCase (space : BitVec 3) (addr data : Byte) (s : State) :
    ExecCase (.hostMemwr space addr data) s (hostMemwrBody space addr data s) := by
  unfold hostMemwrBody
  split
  · next sp _ =>
    split
    · next h =>
      simp only [Bool.and_eq_true, decide_eq_true_eq] at h
      exact .memwr space addr data rfl sp h.1 h.2 rfl
    · exact .plain (raise_plain _ s)
  · exact .plain (raise_plain _ s)

theorem lrZero_run {c : LrCmd} (hc : c.isLoop = false) (s : State) : Run r s (lrZero c s) := lrTry_run hc _ _ s

theorem hostCfgdoneBody_execCase (s : State) : ExecCase .hostCfgdone s (hostCfgdoneBody s) := by
  cases hc : s.line.configured
  case true =>
    have : hostCfgdoneBody s = raise .cfgLocked s := by simp [hostCfgdoneBody, hc]
    rw [this]
    exact .plain (raise_plain _ s)
  case false =>
    simp only [hostCfgdoneBody, hc, Bool.false_eq_true, if_false]
    refine lrCase_cases (P := ExecCase .hostCfgdone s) ?_ (.plain ⟨?_, fun _ => (asked_talk _ s).trans (raise_talk _ _)⟩)
    · exact .cfgdone rfl hc _ (asked_run rfl _ _ s)
        ((lrZero_run rfl _).trans <| (lrZero_run rfl _).trans (lrZero_run rfl _))
    · exact Run.ran (r := true) ((asked_run rfl _ _ s).trans (raise_run _ _))

theorem tickBody_execCase (rxvalid txready : Bool) (s : State) :
    ExecCase (.timeTick rxvalid txready) s (tickBody rxvalid txready s) := by
  cases hc : s.line.configured
  case true => exact .tick rxvalid txready rfl hc (tickBody_run hc rxvalid txready)
  case false => rw [tickBody_unconfigured hc]; exact .plain (plain_refl s)

/-- Every event word ends in a next state, and its step is one of `ExecCase`. -/
theorem exec_execCase (i : Instr) (s : State) : ∃ t, exec i s = .next t ∧ ExecCase i s t := by
  cases i
  case hwNone | fakeNone => exact ⟨_, rfl, .plain (noneEvent_plain s)⟩
  case hwOnhook | fakeOnhook => exact ⟨_, rfl, .plain (lineEntry_plain (onhookBody_ran s))⟩
  case hwOffhook | fakeOffhook => exact ⟨_, rfl, .plain (lineEntry_plain (offhookBody_run s).ran)⟩
  case hwRingoffhook | fakeRingoffhook => exact ⟨_, rfl, .plain (lineEntry_plain (ringoffhookBody_run s).ran)⟩
  case hwWinkflash | fakeWinkflash => exact ⟨_, rfl, .plain (lineEntry_plain (winkflash_ran s))⟩
  case hwRingbegin | fakeRingbegin => exact ⟨_, rfl, .plain (lineEntry_plain (ringbeginBody_run s).ran)⟩
  case hwRingoff | fakeRingoff => exact ⟨_, rfl, .plain (lineEntry_plain (ringoffBody_run s).ran)⟩
  case hwDialcomplete | fakeDialcomplete =>
    exact ⟨_, rfl, .plain (lineEntry_plain (dialcompleteBody_run (r := true) s).ran)⟩
  case hwPolarity | fakePolarity => exact ⟨_, rfl, .plain (lineEntry_plain (polarityBody_run s).ran)⟩
  case hwAlarm | fakeAlarm => exact ⟨_, rfl, .plain (lineEntry_plain (alarmBody_run s).ran)⟩
  case hwNoalarm | fakeNoalarm => exact ⟨_, rfl, .plain (lineEntry_plain (setAlarm_run (r := true) false s).ran)⟩
  case hwPulsedigit d | fakePulsedigit d =>
    exact ⟨_, rfl, .plain (lineEntry_plain (pulsedigitBody_run (r := true) d s).ran)⟩
  case hwDtmfdigit d | fakeDtmfdigit d =>
    exact ⟨_, rfl, .plain (lineEntry_plain (dtmfdigitBody_run (r := true) d s).ran)⟩
  case hostCfgwr reg value => exact ⟨_, rfl, hostCfgwrBody_execCase reg value s⟩
  case hostCfgdone => exact ⟨_, rfl, hostCfgdoneBody_execCase s⟩
  case hostReset => exact ⟨_, rfl, .reset rfl rfl⟩
  case hostMemwr space addr data => exact ⟨_, rfl, hostMemwrBody_execCase space addr data s⟩
  case hostRdreg reg => exact ⟨_, rfl, .plain (indicate_plain (by simp) s)⟩
  case hostMemrd space addr => exact ⟨_, rfl, .plain (hostMemrdBody_plain space addr s)⟩
  case hostAlloc leg => exact ⟨_, rfl, .plain (hostEntry_plain (hostAllocBody_run leg s).ran)⟩
  case hostRelease leg => exact ⟨_, rfl, .plain (hostEntry_plain (hostReleaseBody_run (r := true) leg s).ran)⟩
  case hostSwap a b => exact ⟨_, rfl, .plain (hostEntry_plain (hostSwapBody_run a b s).ran)⟩
  case hostReconcile => exact ⟨_, rfl, .plain (hostEntry_plain (reconcilePass_run (r := true) s).ran)⟩
  case hostSlaveadd line law =>
    exact ⟨_, rfl, .plain (hostEntry_plain (hostSlaveaddBody_run (r := true) line law s).ran)⟩
  case hostSlavedel line => exact ⟨_, rfl, .plain (hostEntry_plain (hostSlavedelBody_run (r := true) line s).ran)⟩
  case hostMasterset line valid native confno =>
    exact ⟨_, rfl, .plain (hostEntry_plain (hostMastersetBody_run (r := true) line valid native confno s).ran)⟩
  case hostMasterclr => exact ⟨_, rfl, .plain (hostEntry_plain (hostMasterclrBody_run (r := true) s).ran)⟩
  case hostInconf b => exact ⟨_, rfl, .plain (hostEntry_plain (hostInconfBody_run (r := true) b s).ran)⟩
  case hostCall mode n tag => exact ⟨_, rfl, .plain (hostEntry_plain (hostCallBody_run mode n tag s).ran)⟩
  case hostUp leg => exact ⟨_, rfl, .plain (hostEntry_plain (hostUpBody_run leg s).ran)⟩
  case hostHangup leg => exact ⟨_, rfl, .plain (hostEntry_plain (hostHangupBody_ran leg s))⟩
  case hostCwoffer tag => exact ⟨_, rfl, .plain (hostEntry_plain (hostCwofferBody_run tag s).ran)⟩
  case hostPoll leg => exact ⟨_, rfl, .plain (hostEntry_plain (hostPollBody_run (r := true) leg s).ran)⟩
  case hostSetlinear leg b => exact ⟨_, rfl, .plain (hostEntry_plain (hostSetlinearBody_run (r := true) leg b s).ran)⟩
  case hostMwinotify b => exact ⟨_, rfl, .plain (hostEntry_plain (hostMwinotifyBody_run (r := true) b s).ran)⟩
  case hostIndicate cond => exact ⟨_, rfl, .plain (hostEntry_plain (hostIndicateBody_run (r := true) cond s).ran)⟩
  case timeTick rxvalid txready => exact ⟨_, rfl, tickBody_execCase rxvalid txready s⟩
  case timeLrfatal => exact ⟨_, rfl, .plain (lrfatalBody_plain s)⟩

theorem exec_cases {i : Instr} (h : exec i s = .next t) : ExecCase i s t := by
  obtain ⟨u, hu, hcase⟩ := exec_execCase i s
  obtain rfl := Host.Outcome.next.inj (hu.symm.trans h)
  exact hcase

/-- The state with its next event word taken. -/
def popped (s : State) : State := s.updEnv fun e => { e with events := e.events.tail }

/-- A step on a queued word is an operation of `ExecCase`, or `E_BADEVENT`. -/
theorem step_cases {w : Word} {rest : List Word} (hq : s.env.events = w :: rest) (h : step s = .next t) :
    (∃ i, decode w = .ok i ∧ exec i (popped s) = .next t ∧ ExecCase i (popped s) t) ∨
    (∃ e, decode w = .error e) ∧ t = raise .badEvent (popped s) := by
  have hpop : { s with env := { s.env with events := rest } } = popped s := by simp [popped, State.updEnv, hq]
  rw [step_of_events_cons hq, hpop] at h
  cases hd : decode w
  case ok i =>
    rw [runWord_of_decode_ok hd] at h
    exact .inl ⟨i, rfl, h, exec_cases h⟩
  case error e =>
    rw [runWord_of_decode_error hd] at h
    exact .inr ⟨⟨e, rfl⟩, (Host.Outcome.next.inj h).symm⟩

/-- What every operation keeps, and taking a word off the queue, a step keeps. -/
theorem step_keeps {P : State → Prop} (hpop : ∀ s, P s → P (popped s)) (hraise : ∀ e s, P s → P (raise e s))
    (hexec : ∀ i s t, P s → exec i s = .next t → ExecCase i s t → P t) (hs : P s) (h : step s = .next t) : P t := by
  cases hq : s.env.events with
  | nil =>
    rw [step_of_no_events hq] at h
    exact Host.Outcome.next.inj h ▸ hs
  | cons w rest =>
    obtain ⟨i, -, hrun, hcase⟩ | ⟨-, rfl⟩ := step_cases hq h
    · exact hexec i _ t (hpop s hs) hrun hcase
    · exact hraise _ _ (hpop s hs)

end Sys2Proof.Machine

end

/-! PROOFS. What every step keeps, from what each micro-operation keeps: the queue and the log (O5, O16), the configuration
(O14, O17), the buffers (O8, O19), the receiver (O13), and that the loop commands name Real (O15). -/

section

namespace Sys2Proof.Machine

variable {r : Bool} {s t u : State}

/-! ### What no rule writes -/

/-- The parameters, the configuration, the clock and the queue are the same, and the output has grown. -/
structure Kept (s t : State) : Prop where
  par : t.par = s.par
  cfg : t.cfg = s.cfg
  configured : t.line.configured = s.line.configured
  now : t.line.now = s.line.now
  events : t.env.events = s.env.events
  frames : t.env.frames = s.env.frames
  out : s.env.out <+: t.env.out

theorem Kept.refl (s : State) : Kept s s := ⟨rfl, rfl, rfl, rfl, rfl, rfl, List.prefix_refl _⟩

theorem Kept.trans (h : Kept s t) (k : Kept t u) : Kept s u :=
  ⟨k.par.trans h.par, k.cfg.trans h.cfg, k.configured.trans h.configured, k.now.trans h.now, k.events.trans h.events,
    k.frames.trans h.frames, h.out.trans k.out⟩

theorem Talk.kept (h : Talk s t) : Kept s t := ⟨h.par, h.cfg, by rw [h.line], by rw [h.line], h.events, h.frames, h.out⟩

theorem Micro.kept (h : Micro r s t) : Kept s t := by
  cases h
  case raise e => exact (raise_talk e s).kept
  case tell h i hi => exact (emit_talk _ s).kept
  case ask line h c hloop => exact (asked_talk _ s).kept
  case line f hnow hconf => exact ⟨rfl, rfl, hconf, hnow, rfl, rfl, List.prefix_refl _⟩
  all_goals exact ⟨rfl, rfl, rfl, rfl, rfl, rfl, List.prefix_refl _⟩

theorem Run.kept (h : Run r s t) : Kept s t := h.relates Kept.refl (fun _ _ _ => Kept.trans) fun _ _ => Micro.kept

theorem Ran.kept (h : Ran s t) : Kept s t := by
  obtain ⟨u, hsu, hut⟩ := h
  exact hsu.kept.trans hut.kept

/-- What every micro-operation keeps, a rule keeps. -/
theorem Ran.keeps {P : State → Prop} (hP : ∀ r s t, Micro r s t → P s → P t) (h : Ran s t) (hs : P s) : P t := by
  obtain ⟨u, hsu, hut⟩ := h
  exact hut.keeps (hP false) (hsu.keeps (hP true) hs)

/-- A tick begins with what writes `NOW`, `RXBUF` and the frames alone. -/
theorem tickStart_fields (rxvalid : Bool) (s : State) :
    (tickStart rxvalid s).par = s.par ∧ (tickStart rxvalid s).cfg = s.cfg ∧
    (tickStart rxvalid s).line = { s.line with now := s.line.now + BitVec.ofNat 32 s.par.tickMs } ∧
    (tickStart rxvalid s).banks = s.banks ∧ (tickStart rxvalid s).env.events = s.env.events ∧
    (tickStart rxvalid s).env.out = s.env.out ∧ (tickStart rxvalid s).err = s.err := by
  cases rxvalid <;> exact ⟨rfl, rfl, rfl, rfl, rfl, rfl, rfl⟩

/-! ### The queue (O5) -/

theorem ExecCase.queue {i : Instr} (h : ExecCase i s t) : t.env.events = s.env.events ∧ s.env.out <+: t.env.out := by
  cases h
  case plain h => exact ⟨h.ran.kept.events, h.ran.kept.out⟩
  case tick rxvalid txready hi hc h =>
    obtain ⟨-, -, -, -, hev, hout, -⟩ := tickStart_fields rxvalid s
    exact ⟨h.kept.events.trans hev, hout ▸ h.kept.out⟩
  case cfgdone hi hc u hu h => exact ⟨h.kept.events.trans hu.kept.events, hu.kept.out.trans h.kept.out⟩
  case reset | cfgwr | memwr => subst t; exact ⟨rfl, List.prefix_refl _⟩

/-! ### The buffers (O8, O19) -/

theorem MemInv.of_mem (h : MemInv s) (hpar : t.par = s.par) (hmem : t.mem = s.mem) : MemInv t :=
  ⟨hpar ▸ h.par, hmem ▸ h.canonical, by rw [hmem, hpar]; exact h.mapped⟩

theorem Talk.memInv (h : Talk s t) (hs : MemInv s) : MemInv t := hs.of_mem h.par h.mem

theorem Micro.memInv (h : Micro r s t) (hs : MemInv s) : MemInv t := by
  cases h
  case raise e => exact (raise_talk e s).memInv hs
  case tell h i hi => exact (emit_talk _ s).memInv hs
  case ask line h c hloop => exact (asked_talk _ s).memInv hs
  case write sp a bs hhost hrx hfits => exact wr_memInv hs sp a bs (hfits hs.par)
  all_goals exact hs.of_mem rfl rfl

theorem receiveFrame_memInv (hs : MemInv s) : MemInv (receiveFrame s) :=
  wr_memInv (hs.of_mem (t := s.updEnv _) rfl rfl) .rxbuf 0 _ (by simp [Space.size])

theorem tickStart_memInv (rxvalid : Bool) (hs : MemInv s) : MemInv (tickStart rxvalid s) := by
  cases rxvalid
  case false => exact hs.of_mem rfl rfl
  case true => exact (receiveFrame_memInv hs).of_mem rfl rfl

theorem hostResetBody_memInv (hs : MemInv s) : MemInv (hostResetBody s) :=
  ⟨hs.par, ⟨List.Pairwise.nil, by simp [hostResetBody, State.resetOf]⟩, by simp [hostResetBody, State.resetOf]⟩

theorem ExecCase.memInv {i : Instr} (h : ExecCase i s t) (hs : MemInv s) : MemInv t := by
  cases h
  case plain h => exact h.ran.keeps (fun _ _ _ => Micro.memInv) hs
  case tick rxvalid txready hi hc h => exact h.keeps (fun _ _ => Micro.memInv) (tickStart_memInv rxvalid hs)
  case reset hi h => exact h ▸ hostResetBody_memInv hs
  case cfgwr reg value hi hc hwf h => subst h; exact hs.of_mem rfl rfl
  case cfgdone hi hc u hu h =>
    exact h.keeps (fun _ _ => Micro.memInv) ((hu.keeps (fun _ _ => Micro.memInv) hs).of_mem rfl rfl)
  case memwr space addr data hi sp hsp haddr h => subst h; exact wr_memInv hs sp _ _ haddr

/-- Every key of the two host buffers reads as before; theirs are the first ones (R70). -/
def SameHostBytes (s t : State) : Prop := ∀ k < 2 * 65536, memRead t.mem k = memRead s.mem k

theorem SameHostBytes.of_mem (h : t.mem = s.mem) : SameHostBytes s t := fun _ _ => by rw [h]

theorem SameHostBytes.trans (h : SameHostBytes s t) (k : SameHostBytes t u) : SameHostBytes s u :=
  fun a ha => (k a ha).trans (h a ha)

theorem wr_sameHostBytes {sp : Space} (hhost : sp.hostWritable = false) (a : Nat) (bs : List Byte) (s : State) :
    SameHostBytes s (wr sp a bs s) := fun k hk => by
  refine memRead_memWrite_outside s.mem _ bs k (.inl ?_)
  cases sp <;> simp_all [Space.hostWritable, Space.key, Space.id] <;> omega

theorem Micro.sameHostBytes (h : Micro r s t) : SameHostBytes s t := by
  cases h
  case raise e => exact .of_mem (raise_talk e s).mem
  case tell h i hi => exact .of_mem (emit_talk _ s).mem
  case ask line h c hloop => exact .of_mem (asked_talk _ s).mem
  case write sp a bs hhost hrx hfits => exact wr_sameHostBytes hhost a bs s
  all_goals exact .of_mem rfl

theorem Run.sameHostBytes (h : Run r s t) : SameHostBytes s t :=
  h.relates (fun _ => .of_mem rfl) (fun _ _ _ => SameHostBytes.trans) fun _ _ => Micro.sameHostBytes

theorem tickStart_sameHostBytes (rxvalid : Bool) (s : State) : SameHostBytes s (tickStart rxvalid s) := by
  cases rxvalid
  case false => exact .of_mem rfl
  case true => exact wr_sameHostBytes (sp := .rxbuf) rfl 0 (nextFrame s) (s.updEnv _)

/-- Only `MEMWR` and `RESET` write a host buffer. -/
theorem ExecCase.sameHostBytes {i : Instr} (h : ExecCase i s t) :
    SameHostBytes s t ∨ (∃ space addr data, i = .hostMemwr space addr data) ∨ i = .hostReset := by
  cases h
  case plain h =>
    obtain ⟨u, hsu, hut⟩ := h.ran
    exact .inl (hsu.sameHostBytes.trans hut.sameHostBytes)
  case tick rxvalid txready hi hc h => exact .inl ((tickStart_sameHostBytes rxvalid s).trans h.sameHostBytes)
  case cfgwr reg value hi hc hwf h => subst h; exact .inl (.of_mem rfl)
  case cfgdone hi hc u hu h => exact .inl (hu.sameHostBytes.trans h.sameHostBytes)
  case reset hi h => exact .inr (.inr hi)
  case memwr space addr data hi sp hsp haddr h => exact .inr (.inl ⟨space, addr, data, hi⟩)

theorem SameHostBytes.rd (h : SameHostBytes s t) {sp : Space} (hsp : sp = .cidmsg ∨ sp = .dialbuf) {a : Nat}
    (ha : a < 65536) : rd sp a t = rd sp a s := by
  refine h _ ?_
  obtain rfl | rfl := hsp <;> simp only [Space.key, Space.id] <;> omega

/-! ### The Caller-ID receiver (O13) -/

theorem CidInv.of_rx (h : CidInv s) (hpar : t.par = s.par) (hrx : t.rx = s.rx) : CidInv t := by
  obtain ⟨h1, h2, h3, h4, h5⟩ := h
  constructor <;> simpa only [hpar, hrx]

theorem Talk.cidInv (h : Talk s t) (hs : CidInv s) : CidInv t := hs.of_rx h.par h.rx

theorem Micro.cidInv (h : Micro r s t) (hs : CidInv s) : CidInv t := by
  cases h
  case raise e => exact (raise_talk e s).cidInv hs
  case tell h i hi => exact (emit_talk _ s).cidInv hs
  case ask line h c hloop => exact (asked_talk _ s).cidInv hs
  case rx f hinv => exact hinv hs
  all_goals exact hs.of_rx rfl rfl

theorem hostResetBody_cidInv (hs : CidInv s) : CidInv (hostResetBody s) :=
  { par := hs.par
    rxlen := Nat.zero_le _
    dtmflen := Nat.zero_le _
    valid := fun hd => absurd hd (by simp [hostResetBody, State.resetOf, CidRxRegs.reset])
    ngap := (Nat.zero_le _).trans_lt hs.ngap }

theorem ExecCase.cidInv {i : Instr} (h : ExecCase i s t) (hs : CidInv s) : CidInv t := by
  cases h
  case plain h => exact h.ran.keeps (fun _ _ _ => Micro.cidInv) hs
  case tick rxvalid txready hi hc h =>
    refine h.keeps (fun _ _ => Micro.cidInv) (hs.of_rx ?_ ?_) <;> cases rxvalid <;> rfl
  case reset hi h => exact h ▸ hostResetBody_cidInv hs
  case cfgdone hi hc u hu h =>
    exact h.keeps (fun _ _ => Micro.cidInv) ((hu.keeps (fun _ _ => Micro.cidInv) hs).of_rx rfl rfl)
  case cfgwr | memwr => subst t; exact hs.of_rx rfl rfl

/-! ### The conference registers (O7) -/

theorem ConfGood.of_conf (h : ConfGood s) (hpar : t.par = s.par) (hconf : t.conf = s.conf) (hcfg : t.cfg = s.cfg)
    (hcur : LegalShadows t.banks) : ConfGood t := by
  have hat (i : Nat) : slaveAt i t = slaveAt i s := by rw [slaveAt, slaveAt, hconf]
  have hid : lineId t = lineId s := by rw [lineId, lineId, hcfg]
  obtain ⟨h1, h2, h3, h4, h5, h6, h7, h8, -, h9, -, h10, h11⟩ := h
  have e (i : Nat) (s : State) (f) : slaveAt i (s.updLine f) = slaveAt i s := rfl
  have e' (s : State) (f) : lineId (s.updLine f) = lineId s := rfl
  refine ⟨?_, ?_, ?_, ?_, ?_, ?_, ?_, ?_, fun hc => absurd hc (by simp), ?_, hcur, ?_, ?_⟩ <;>
    simpa only [e, e', hat, hid, State.updLine_conf, State.updLine_par, hconf, hpar] using by assumption

theorem Talk.confGood (h : Talk s t) (hs : ConfGood s) : ConfGood t :=
  hs.of_conf h.par h.conf h.cfg (h.banks ▸ hs.legs)

theorem Micro.confGood (h : Micro r s t) (hs : ConfGood s) : ConfGood t := by
  cases h
  case raise e => exact (raise_talk e s).confGood hs
  case tell h i hi => exact (emit_talk _ s).confGood hs
  case ask line h c hloop => exact (asked_talk _ s).confGood hs
  case banks f hres hcur => exact hs.of_conf rfl rfl rfl (hcur hs.legs)
  case conf f hgood => exact hgood hs
  all_goals exact hs.of_conf rfl rfl rfl hs.legs

/-- Before `CFGDONE` a Line has no slaves, no master and no conference number, so its own number may be written. -/
theorem ConfInv.updCfg (h : ConfInv s) (hc : s.line.configured = false) (f : CfgRegs → CfgRegs) : ConfInv (s.updCfg f) := by
  obtain ⟨hn, hm, hv⟩ := h.setup hc
  have hnone : s.conf.nslaves.toNat = 0 := by simp [hn]
  exact { h with
    notSelf := fun i hi => absurd hi (by simp [hnone])
    master := fun hm' => absurd (hm.symm.trans hm') (by simp)
    own := by have := h.own; simpa [hv] using this }

theorem resetOf_confInv {p : Config.Params} (hp : p.ok) : ConfInv (State.resetOf p) := by
  have hat (i : Nat) : slaveAt i (State.resetOf p) = Slave.empty := by
    change (#v[Slave.empty, Slave.empty, Slave.empty, Slave.empty] : Vector Slave 4)[i]?.getD Slave.empty = _
    match i with
    | 0 | 1 | 2 | 3 => rfl
    | n + 4 => simp
  exact
    { par := hp
      few := Nat.zero_le _
      distinct := fun i j hij hj => absurd hj (Nat.not_lt_zero _)
      notSelf := fun i hi => absurd hi (Nat.not_lt_zero _)
      unused := fun i _ => hat i
      master := fun hm => absurd hm Bool.false_ne_true
      noMaster := fun _ => ⟨rfl, rfl, rfl, rfl⟩
      own := rfl
      setup := fun _ => ⟨rfl, rfl, rfl⟩
      saved := fun _ => rfl
      legs := fun x => by cases x <;> exact descNone_legal
      slaves := fun i => by rw [hat]; exact descNone_legal
      suspended := descNone_legal }

theorem hostResetBody_confInv (hs : ConfInv s) : ConfInv (hostResetBody s) := by exact { resetOf_confInv hs.par with }

theorem ConfInv.talk (hs : ConfInv s) (h : Talk s t) : ConfInv t :=
  { h.confGood hs.confGood with setup := by rw [h.line, h.conf]; exact hs.setup }

theorem Plain.confInv (h : Plain s t) (hs : ConfInv s) : ConfInv t := by
  cases hc : s.line.configured
  case false => exact hs.talk (h.setup hc)
  case true => exact (h.ran.keeps (fun _ _ _ => Micro.confGood) hs.confGood).confInv (h.ran.kept.configured.trans hc)

theorem ExecCase.confInv {i : Instr} (h : ExecCase i s t) (hs : ConfInv s) : ConfInv t := by
  cases h
  case plain h => exact h.confInv hs
  case tick rxvalid txready hi hc h =>
    have hstart : ConfGood (tickStart rxvalid s) := by
      refine hs.confGood.of_conf ?_ ?_ ?_ ?_ <;> cases rxvalid <;> first | rfl | exact hs.legs
    obtain ⟨-, -, hline, -⟩ := tickStart_fields rxvalid s
    exact (h.keeps (fun _ _ => Micro.confGood) hstart).confInv (h.kept.configured.trans (by rw [hline]; exact hc))
  case reset hi h => exact h ▸ hostResetBody_confInv hs
  case cfgwr reg value hi hc hwf h => exact h ▸ hs.updCfg hc _
  case cfgdone hi hc u hu h =>
    have hmid : ConfGood u := hu.keeps (fun _ _ => Micro.confGood) hs.confGood
    exact (h.keeps (fun _ _ => Micro.confGood) (hmid.of_conf rfl rfl rfl hmid.legs)).confInv h.kept.configured
  case memwr space addr data hi sp hsp haddr h => subst h; exact { hs with }

/-! ### The configuration (O14, O17) -/

theorem CfgInv.of_cfg (h : CfgInv s) (hcfg : t.cfg = s.cfg) : CfgInv t := by
  obtain ⟨h1, h2, h3, h4⟩ := h
  constructor <;> simpa only [hcfg]

/-- The fields of the two checked registers lie within their masks. -/
theorem slice_masked_two (v : Half) (lo : Nat) (hlo : lo ≤ 2) : slice (v &&& 0x000F#16) lo 2 = slice v lo 2 := by
  have hones : slice (0x000F#16 : Half) lo 2 = BitVec.allOnes 2 := by interval_cases lo <;> decide
  rw [slice, BitVec.extractLsb'_and]
  rw [slice] at hones
  rw [hones, BitVec.and_allOnes]
  rfl

theorem masked_four_toNat (v : Half) : (v &&& 0x000F#16).toNat = (slice v 0 4).toNat := by
  rw [slice, BitVec.extractLsb'_toNat, BitVec.toNat_and]
  exact Nat.and_two_pow_sub_one_eq_mod v.toNat 4

/-- A legal write keeps the register file legal (R112, R380). -/
theorem CfgInv.write (h : CfgInv s) {reg : Byte} {value : Half} (hwf : wfCfg reg value = true) :
    CfgInv (s.updCfg fun c => c.setIfInBounds reg.toNat (value &&& implementedMask reg)) := by
  have hread (n : Nat) : cfgRead (s.updCfg fun c => c.setIfInBounds reg.toNat (value &&& implementedMask reg)).cfg n =
      if n = reg.toNat then value &&& implementedMask reg else cfgRead s.cfg n :=
    cfgRead_setIfInBounds s.cfg (lt_cfgCount_of_wfCfg hwf) _ n
  have hreg {k : Nat} (hk : k = reg.toNat) : reg = BitVec.ofNat 8 k := by rw [hk, BitVec.ofNat_toNat, BitVec.setWidth_eq]
  simp only [wfCfg, Bool.and_eq_true, Bool.not_eq_true', Bool.and_eq_false_iff, beq_eq_false_iff_ne, Bool.or_eq_false_iff,
    decide_eq_false_iff_not] at hwf
  obtain ⟨⟨-, hsig⟩, hcid⟩ := hwf
  refine ⟨fun n => ?masked, ?sig, ?cidSig, ?cidStart⟩
  case masked =>
    by_cases hn : n.val = reg.toNat
    · simp [State.updCfg, hn, BitVec.and_assoc]
    · simpa [State.updCfg, Vector.getElem_setIfInBounds, Ne.symm hn] using h.masked n
  case sig =>
    rw [hread]
    split
    · next hk =>
      obtain rfl := hreg hk
      have hle := BitVec.not_lt.mp (hsig.resolve_left (by simp))
      rw [BitVec.le_def] at hle ⊢
      exact (masked_four_toNat value).trans_le hle
    · exact h.sig
  case cidSig =>
    rw [hread]
    split
    · next hk =>
      obtain rfl := hreg hk
      exact slice_masked_two value 0 (by omega) ▸ (hcid.resolve_left (by simp)).1
    · exact h.cidSig
  case cidStart =>
    rw [hread]
    split
    · next hk =>
      obtain rfl := hreg hk
      exact slice_masked_two value 2 (by omega) ▸ (hcid.resolve_left (by simp)).2
    · exact h.cidStart

/-- The configuration registers after reset (R112): 0, but for the timing registers and the threshold. -/
theorem cfgRead_resetOf (p : Config.Params) (n : Nat) :
    cfgRead (State.resetOf p).cfg n =
      if n = 0x04 then p.ringTimeoutMs else if n = 0x05 then p.polDelayMs else if n = 0x06 then p.guardMs
      else if n = 0x07 then p.cidTimeoutMs else if n = 0x08 then p.cwRepeatMs else if n = 0x09 then p.cidSuppressMs
      else if n = 0x0A then p.cidcwExpireMs else if n = 0x0B then p.dtmfThresh else 0 := by
  by_cases hn : n < cfgCount
  · interval_cases n <;> rfl
  · have hout : cfgRead (State.resetOf p).cfg n = 0 := by simp [cfgRead, hn]
    have hge : 29 ≤ n := Nat.not_lt.mp hn
    rw [hout]
    iterate 8 rw [if_neg (by omega)]

/-- The registers that are not 0 after reset have no bit outside their masks, whatever they are (R112). -/
theorem resetOf_cfgInv (p : Config.Params) : CfgInv (State.resetOf p) := by
  refine ⟨fun n => ?_, ?_, ?_, ?_⟩
  · have hones (v : Half) : v &&& 0xFFFF = v := BitVec.and_allOnes
    fin_cases n <;> first | exact hones _ | exact BitVec.zero_and
  all_goals simp [cfgRead_resetOf, slice]

theorem ExecCase.cfgInv {i : Instr} (h : ExecCase i s t) (hs : CfgInv s) : CfgInv t := by
  cases h
  case plain h => exact hs.of_cfg h.ran.kept.cfg
  case tick rxvalid txready hi hc h =>
    obtain ⟨-, hcfg, -⟩ := tickStart_fields rxvalid s
    exact hs.of_cfg (h.kept.cfg.trans hcfg)
  case reset hi h => exact h ▸ (resetOf_cfgInv s.par).of_cfg rfl
  case cfgwr reg value hi hc hwf h => exact h ▸ hs.write hwf
  case cfgdone hi hc u hu h => exact hs.of_cfg (h.kept.cfg.trans hu.kept.cfg)
  case memwr space addr data hi sp hsp haddr h => exact h ▸ hs.of_cfg rfl

/-- What an operation leaves of the configuration and of the parameters (R87, R430). -/
theorem ExecCase.config {i : Instr} (h : ExecCase i s t) :
    t.par = s.par ∧
    (s.line.configured = true → i ≠ .hostReset → t.cfg = s.cfg ∧ t.line.configured = true) ∧
    (s.line.configured = false → t.line.configured = true → i = .hostCfgdone) := by
  cases h
  case plain h =>
    have hk := h.ran.kept
    exact ⟨hk.par, fun hc _ => ⟨hk.cfg, hk.configured.trans hc⟩, fun hc ht => by simp [hk.configured, hc] at ht⟩
  case tick rxvalid txready hi hc h =>
    obtain ⟨hpar, hcfg, hline, -⟩ := tickStart_fields rxvalid s
    have hk := h.kept
    have hconf : t.line.configured = true := by rw [hk.configured, hline, hc]
    exact ⟨hk.par.trans hpar, fun _ _ => ⟨hk.cfg.trans hcfg, hconf⟩, fun hn => absurd (hc.symm.trans hn) (by simp)⟩
  case reset hi h =>
    subst h
    exact ⟨rfl, fun _ hne => absurd hi hne, fun _ ht => absurd ht Bool.false_ne_true⟩
  case cfgwr reg value hi hc hwf h =>
    subst h
    exact ⟨rfl, fun hn => absurd (hc.symm.trans hn) (by simp), fun _ ht => absurd (hc.symm.trans ht) (by simp)⟩
  case cfgdone hi hc u hu h =>
    exact ⟨h.kept.par.trans hu.kept.par, fun hn => absurd (hc.symm.trans hn) (by simp), fun _ _ => hi⟩
  case memwr space addr data hi sp hsp haddr h =>
    subst h
    exact ⟨rfl, fun hc _ => ⟨rfl, hc⟩, fun hc ht => absurd (hc.symm.trans ht) (by simp)⟩

/-! ### The clock (O18) -/

/-- No operation but a tick and `RESET` writes `NOW` (R12, R360). -/
theorem ExecCase.now {i : Instr} (h : ExecCase i s t) (htick : isTick i = false) (hreset : i ≠ .hostReset) :
    t.line.now = s.line.now := by
  cases h
  case plain h => exact h.ran.kept.now
  case tick rxvalid txready hi hc h => subst hi; exact absurd htick (by simp [isTick])
  case reset hi h => exact absurd hi hreset
  case cfgdone hi hc u hu h => exact h.kept.now.trans hu.kept.now
  case cfgwr | memwr => subst t; rfl

/-- A tick of a configured Line adds `TICK_MS` to `NOW`. -/
theorem tickBody_now (hc : s.line.configured = true) (rxvalid txready : Bool) :
    (tickBody rxvalid txready s).line.now = s.line.now + BitVec.ofNat 32 s.par.tickMs := by
  obtain ⟨-, -, hline, -⟩ := tickStart_fields rxvalid s
  rw [(tickBody_run hc rxvalid txready).kept.now, hline]

/-! ### The log (O16) -/

section Words

variable (cls : BitVec 4) (code line : Byte) (h : BitVec 4) (arg : BitVec 32)

/-- `CODE` lies under `CLASS` (R106). -/
theorem wordCode_actionWord : wordCode (actionWord cls code line h arg) = code := by
  rw [wordCode, slice, actionWord]
  iterate 4 rw [BitVec.extractLsb'_append_eq_of_le (by decide)]
  rw [BitVec.extractLsb'_append_eq_of_add_le (by decide)]
  exact BitVec.extractLsb'_eq_self

/-- `LINE` lies under `CODE` (R106). -/
theorem wordLine_actionWord : wordLine (actionWord cls code line h arg) = line := by
  rw [wordLine, slice, actionWord]
  iterate 3 rw [BitVec.extractLsb'_append_eq_of_le (by decide)]
  rw [BitVec.extractLsb'_append_eq_of_add_le (by decide)]
  exact BitVec.extractLsb'_eq_self

/-- `H` lies under `LINE` (R106). -/
theorem wordH_actionWord : wordH (actionWord cls code line h arg) = h := by
  rw [wordH, slice, actionWord]
  iterate 2 rw [BitVec.extractLsb'_append_eq_of_le (by decide)]
  rw [BitVec.extractLsb'_append_eq_of_add_le (by decide)]
  exact BitVec.extractLsb'_eq_self

end Words

@[simp] theorem isErrInd_lrWord (line : Byte) (h : BitVec 4) (c : LrCmd) : isErrInd (lrWord line h c) = false := by
  simp [isErrInd, lrWord, wordClass_actionWord]

theorem isErrInd_indWord (line : Byte) (h : BitVec 4) (i : Ind) :
    isErrInd (indWord line h i) = (i.code == 0x05) := by
  simp [isErrInd, indWord, wordClass_actionWord, wordCode_actionWord]

theorem isErrInd_of_ne_error {i : Ind} (hi : ∀ e, i ≠ .error e) (line : Byte) (h : BitVec 4) :
    isErrInd (indWord line h i) = false := by
  rw [isErrInd_indWord]
  cases i <;> first | rfl | exact absurd rfl (hi _)

/-- An `ERRIND` carries its code in `ARG[7:0]`, and the code its class in the high nibble (R108, R411). -/
theorem errInd_fields (line : Byte) (h : BitVec 4) (e : ErrCode) :
    errCodeOf (indWord line h (.error e)) = e.code ∧ slice (indWord line h (.error e)) 4 3 = e.errClass := by
  constructor
  · rw [errCodeOf, slice, indWord_error]
    iterate 2 rw [BitVec.extractLsb'_append_eq_of_add_le (by decide)]
    exact BitVec.extractLsb'_eq_self
  · rw [slice, indWord_error]
    iterate 2 rw [BitVec.extractLsb'_append_eq_of_add_le (by decide)]
    rfl

/-- The error registers as they stand after these words (R34): the count of the `ERRIND`s, and the last of them. -/
structure Logged (ws : List ActionWord) (a b : ErrRegs) : Prop where
  count : b.errcnt.toNat = min (a.errcnt.toNat + (ws.filter isErrInd).length) 65535
  code : b.lasterr = ((ws.filter isErrInd).getLast?.map errCodeOf).getD a.lasterr
  class_ : b.lasterrClass = ((ws.filter isErrInd).getLast?.map fun e => slice e 4 3).getD a.lasterrClass

/-- From `s` to `t` every error is logged. -/
def Logs (s t : State) : Prop := ∃ ws, t.env.out = s.env.out ++ ws ∧ Logged ws s.err t.err

theorem Logs.quiet {ws : List ActionWord} (hout : t.env.out = s.env.out ++ ws) (hws : ws.filter isErrInd = [])
    (herr : t.err = s.err) : Logs s t := by
  have hlt := s.err.errcnt.isLt
  exact ⟨ws, hout, by rw [herr, hws]; simp only [List.length_nil]; omega, by rw [herr, hws]; rfl, by rw [herr, hws]; rfl⟩

theorem Logs.of_same (hout : t.env.out = s.env.out) (herr : t.err = s.err) : Logs s t :=
  .quiet (ws := []) (by rw [hout, List.append_nil]) rfl herr

theorem Logs.refl (s : State) : Logs s s := .of_same rfl rfl

theorem getLast?_map_append {α β : Type} (f : α → β) (xs ys : List α) (d : β) :
    ((xs ++ ys).getLast?.map f).getD d = (ys.getLast?.map f).getD ((xs.getLast?.map f).getD d) := by
  rw [List.getLast?_append]
  cases ys.getLast? <;> rfl

theorem Logs.trans (h : Logs s t) (k : Logs t u) : Logs s u := by
  obtain ⟨ws, hout, hcount, hcode, hclass⟩ := h
  obtain ⟨vs, kout, kcount, kcode, kclass⟩ := k
  refine ⟨ws ++ vs, by rw [kout, hout, List.append_assoc], ?_, ?_, ?_⟩
  · rw [kcount, hcount, List.filter_append, List.length_append]; omega
  · rw [kcode, hcode, List.filter_append, getLast?_map_append]
  · rw [kclass, hclass, List.filter_append, getLast?_map_append]

/-- A saturating count (R13). -/
theorem countUp_toNat (n : Half) : (countUp n).toNat = min (n.toNat + 1) 65535 := by
  rw [countUp_half]
  split
  · next h => subst h; rfl
  · next h =>
    have : n.toNat ≠ 65535 := fun e => h (BitVec.eq_of_toNat_eq e)
    bv_omega

theorem raise_logs (e : ErrCode) (s : State) : Logs s (raise e s) := by
  obtain ⟨hcode, hclass⟩ := errInd_fields (lineId s) hAny e
  have hind : isErrInd (indWord (lineId s) hAny (.error e)) = true := isErrInd_indWord _ _ _
  refine ⟨[indWord (lineId s) hAny (.error e)], rfl, ?_, ?_, ?_⟩
  · simp [hind, raise_eq, countUp_toNat]
  · simp [hind, hcode, raise_eq]
  · simp [hind, hclass, raise_eq]

theorem Micro.logs (h : Micro r s t) : Logs s t := by
  cases h
  case raise e => exact raise_logs e s
  case tell h i hi => exact .quiet (ws := [_]) rfl (by simp [isErrInd_of_ne_error hi]) rfl
  case ask line h c hloop => exact .quiet (asked_out _ s) (by simp) (asked_err _ s)
  all_goals exact .of_same rfl rfl

theorem Run.logs (h : Run r s t) : Logs s t := h.relates Logs.refl (fun _ _ _ => Logs.trans) fun _ _ => Micro.logs

theorem ExecCase.logs {i : Instr} (h : ExecCase i s t) (hreset : i ≠ .hostReset) : Logs s t := by
  cases h
  case plain h =>
    obtain ⟨u, hsu, hut⟩ := h.ran
    exact hsu.logs.trans hut.logs
  case tick rxvalid txready hi hc h =>
    obtain ⟨-, -, -, -, -, hout, herr⟩ := tickStart_fields rxvalid s
    exact (Logs.of_same hout herr).trans h.logs
  case reset hi h => exact absurd hi hreset
  case cfgdone hi hc u hu h => exact (hu.logs.trans (.of_same rfl rfl)).trans h.logs
  case cfgwr | memwr => subst t; exact .of_same rfl rfl

/-! ### Loop commands (O15) -/

theorem isLoopCommand_lrWord (line : Byte) (h : BitVec 4) (c : LrCmd) : isLoopCommand (lrWord line h c) = c.isLoop := by
  rw [isLoopCommand, lrWord, wordClass_actionWord, wordCode_actionWord]
  cases c <;> rfl

theorem isLoopCommand_indWord (line : Byte) (h : BitVec 4) (i : Ind) : isLoopCommand (indWord line h i) = false := by
  simp [isLoopCommand, indWord, wordClass_actionWord]

/-- From `s` to `t` the words are loop commands only if they name Real's resource on this Line. -/
def LoopsName (h : BitVec 4) (line : Byte) (s t : State) : Prop :=
  ∃ ws, t.env.out = s.env.out ++ ws ∧ ∀ w ∈ ws, isLoopCommand w = true → wordH w = h ∧ wordLine w = line

theorem LoopsName.refl (h : BitVec 4) (line : Byte) (s : State) : LoopsName h line s s := ⟨[], by simp, by simp⟩

theorem LoopsName.of_out {h : BitVec 4} {line : Byte} (hout : t.env.out = s.env.out) : LoopsName h line s t :=
  ⟨[], by simp [hout], by simp⟩

theorem LoopsName.one {h : BitVec 4} {line : Byte} {w : ActionWord} (hout : t.env.out = s.env.out ++ [w])
    (hw : isLoopCommand w = true → wordH w = h ∧ wordLine w = line) : LoopsName h line s t :=
  ⟨[w], hout, by simpa using hw⟩

theorem LoopsName.trans {h : BitVec 4} {line : Byte} (hst : LoopsName h line s t) (htu : LoopsName h line t u) :
    LoopsName h line s u := by
  obtain ⟨ws, hout, hws⟩ := hst
  obtain ⟨vs, kout, hvs⟩ := htu
  refine ⟨ws ++ vs, by rw [kout, hout, List.append_assoc], fun w hw => ?_⟩
  obtain hw | hw := List.mem_append.mp hw
  · exact hws w hw
  · exact hvs w hw

/-- A rule that binds resources sends no loop command. -/
theorem Micro.loopsName_true (h : Micro true s t) (hf : BitVec 4) (line : Byte) : LoopsName hf line s t := by
  cases h
  case raise e => exact .one rfl fun hl => absurd hl (by rw [isLoopCommand_indWord]; simp)
  case tell h i hi => exact .one rfl fun hl => absurd hl (by rw [isLoopCommand_indWord]; simp)
  case ask l h c hloop =>
    refine .one (asked_out _ s) fun hl => ?_
    rw [isLoopCommand_lrWord] at hl
    exact absurd (hloop hl).1 (by simp)
  all_goals exact .of_out rfl

/-- A rule that sends loop commands leaves Real its resource, and names it. -/
theorem Micro.loopsName_false (h : Micro false s t) : realH t = realH s ∧ LoopsName (realH s) (lineId s) s t := by
  cases h
  case raise e => exact ⟨rfl, .one rfl fun hl => absurd hl (by rw [isLoopCommand_indWord]; simp)⟩
  case tell h i hi => exact ⟨rfl, .one rfl fun hl => absurd hl (by rw [isLoopCommand_indWord]; simp)⟩
  case ask l h c hloop =>
    refine ⟨by rw [realH, realH, (asked_talk _ s).banks], .one (asked_out _ s) fun hl => ?_⟩
    rw [isLoopCommand_lrWord] at hl
    obtain ⟨-, rfl, rfl⟩ := hloop hl
    exact ⟨wordH_actionWord .., wordLine_actionWord ..⟩
  case banks f hres hcur => exact ⟨congrArg handleField (hres rfl), .of_out rfl⟩
  all_goals exact ⟨rfl, .of_out rfl⟩

theorem Run.loopsName_true (h : Run true s t) (hf : BitVec 4) (line : Byte) : LoopsName hf line s t :=
  h.relates (LoopsName.refl hf line) (fun _ _ _ => LoopsName.trans) fun _ _ hm => hm.loopsName_true hf line

theorem Run.loopsName_false (h : Run false s t) : realH t = realH s ∧ LoopsName (realH t) (lineId t) s t := by
  induction h with
  | refl => exact ⟨rfl, .refl _ _ _⟩
  | tail _ hstep ih =>
    obtain ⟨hreal, hws⟩ := ih
    obtain ⟨kreal, kws⟩ := hstep.loopsName_false
    have hline : lineId _ = lineId _ := congrArg cfgLineId hstep.kept.cfg
    rw [kreal, hline]
    exact ⟨hreal, hws.trans kws⟩

theorem Ran.loopsName (h : Ran s t) : LoopsName (realH t) (lineId t) s t := by
  obtain ⟨u, hsu, hut⟩ := h
  exact (hsu.loopsName_true _ _).trans hut.loopsName_false.2

theorem ExecCase.loopsName {i : Instr} (h : ExecCase i s t) : LoopsName (realH t) (lineId t) s t := by
  cases h
  case plain h => exact h.ran.loopsName
  case tick rxvalid txready hi hc h =>
    obtain ⟨-, -, -, -, -, hout, -⟩ := tickStart_fields rxvalid s
    exact .trans (.of_out hout) h.loopsName_false.2
  case cfgdone hi hc u hu h =>
    obtain ⟨hreal, hws⟩ := hu.loopsName_false
    obtain ⟨kreal, kws⟩ := h.loopsName_false
    have hline : lineId t = lineId u := congrArg cfgLineId h.kept.cfg
    rw [kreal, hline] at kws ⊢
    exact hws.trans (.trans (.of_out rfl) kws)
  case reset | cfgwr | memwr => subst t; exact .of_out rfl

end Sys2Proof.Machine

namespace Sys2Proof

open Sys2Proof.Machine

variable {s t : State}

/-- Settles O5: an operation leaves the queue it finds and adds to the output; the step has taken one word. -/
theorem oneWordPerStep : Obligations.OneWordPerStep := by
  intro s t w rest hq h
  have hpop : (popped s).env.events = rest := by simp [popped, hq]
  obtain ⟨i, -, -, hcase⟩ | ⟨-, rfl⟩ := step_cases hq h
  · obtain ⟨hev, hout⟩ := hcase.queue
    exact ⟨hev.trans hpop, hout⟩
  · exact ⟨hpop, (raise_talk .badEvent (popped s)).out⟩

/-- Every step keeps the invariant of the conference registers: one half of O7. -/
theorem confInv_kept (hs : ConfInv s) (h : step s = .next t) : ConfInv t :=
  step_keeps (P := ConfInv) (fun _ hs => by exact { hs with })
    (fun e s hs => hs.talk (raise_talk e s))
    (fun _ _ _ hs _ hcase => hcase.confInv hs) hs h

/-- Settles O8: each micro-operation that writes memory writes within a space. -/
theorem memInvKept : Obligations.MemInvKept := fun _ _ hs h =>
  step_keeps (P := MemInv) (fun _ hs => hs.of_mem rfl rfl) (fun e s hs => (raise_talk e s).memInv hs)
    (fun _ _ _ hs _ hcase => hcase.memInv hs) hs h

/-- Settles O13: each micro-operation that writes the receiver keeps its bounds. -/
theorem cidInvKept : Obligations.CidInvKept := fun _ _ hs h =>
  step_keeps (P := CidInv) (fun _ hs => hs.of_rx rfl rfl) (fun e s hs => (raise_talk e s).cidInv hs)
    (fun _ _ _ hs _ hcase => hcase.cidInv hs) hs h

/-- Settles O14: only `CFGWR` writes a configuration register, a legal value through the register's mask. -/
theorem cfgInvKept : Obligations.CfgInvKept := fun _ _ hs h =>
  step_keeps (P := CfgInv) (fun _ hs => hs.of_cfg rfl) (fun _ _ hs => hs.of_cfg rfl)
    (fun _ _ _ hs _ hcase => hcase.cfgInv hs) hs h

/-- Settles O15: a step binds resources first and commands the line after that. -/
theorem loopCommandsNameReal : Obligations.LoopCommandsNameReal := by
  intro s t h w hw hloop
  suffices hnames : LoopsName (realH t) (lineId t) s t by
    obtain ⟨ws, hout, hws⟩ := hnames
    rw [newWords, hout, List.drop_left] at hw
    exact hws w hw hloop
  cases hq : s.env.events with
  | nil =>
    rw [step_of_no_events hq] at h
    exact Host.Outcome.next.inj h ▸ .refl _ _ _
  | cons v rest =>
    obtain ⟨i, -, -, hcase⟩ | ⟨-, rfl⟩ := step_cases hq h
    · exact .trans (.of_out rfl) hcase.loopsName
    · exact .trans (.of_out rfl) (raise_run (r := false) _ _).loopsName_false.2

/-- Settles O16: `raise` writes the error registers with its `ERRIND`, and no other micro-operation does either. -/
theorem errorsLogged : Obligations.ErrorsLogged := by
  intro s t w rest hq hreset h
  have hlogs : Logs (popped s) t := by
    obtain ⟨i, hi, -, hcase⟩ | ⟨-, rfl⟩ := step_cases hq h
    · exact hcase.logs fun e => hreset (e ▸ hi)
    · exact raise_logs _ _
  obtain ⟨ws, hout, hcount, hcode, hclass⟩ := hlogs
  have hws : newWords s t = ws := by
    rw [newWords, hout]
    exact List.drop_left
  rw [hws]
  exact ⟨hcount, fun e he => by rw [hcode, hclass, he]; exact ⟨rfl, rfl⟩,
    fun he => by rw [hcode, hclass, he]; exact ⟨rfl, rfl⟩⟩

/-- Settles O17: of the operations only `CFGWR`, before `CFGDONE`, `CFGDONE` and `RESET` write what is fixed. -/
theorem configLocked : Obligations.ConfigLocked := by
  intro s t w rest hq h
  obtain ⟨i, hi, -, hcase⟩ | ⟨⟨e, he⟩, rfl⟩ := step_cases hq h
  · obtain ⟨hpar, hlocked, hdone⟩ := hcase.config
    exact ⟨hpar, fun hc hreset => hlocked hc fun e => hreset (e ▸ hi), fun hc ht => hdone hc ht ▸ hi⟩
  · exact ⟨rfl, fun hc _ => ⟨rfl, hc⟩, fun hc ht => absurd (hc.symm.trans ht) (by simp)⟩

/-- Settles O19: no other operation writes below the third space. -/
theorem hostBuffersAreTheHosts : Obligations.HostBuffersAreTheHosts := by
  intro s t w rest sp a hq h hsp _ ha hne
  obtain ⟨i, hi, -, hcase⟩ | ⟨-, rfl⟩ := step_cases hq h
  · obtain hsame | ⟨space, addr, data, rfl⟩ | rfl := hcase.sameHostBytes
    · exact absurd (hsame.rd hsp ha) hne
    · exact .inl ⟨space, addr, data, hi⟩
    · exact .inr hi
  · exact absurd rfl hne

end Sys2Proof

end

/-! PROOFS. What a procedure makes of the registers, apart from what it says.

A procedure of the model writes registers, emits words and asks the Line Resource. `Acts k p f` says that the procedure `f` is
the silent function `p` of the registers, but for the words, errors and answers of at most `k` commands; it is shown for one
operation after the other. Reconciliation passes also write shadows and the conference number: `Passes k s t`. -/

section

namespace Sys2Proof.Machine

open Sys2Proof.Config (Answer)

variable {s t u : State} {j k : Nat}

/-! ### Saying -/

/-- `t` is `s` but for what at most `k` commands and any indications say; where the commands are accepted, no error is raised. -/
structure Says (k : Nat) (s t : State) : Prop extends Talk s t where
  smooth : ∀ n, Accepts (n + k) s → NoError s t ∧ Accepts n t

theorem Says.refl (s : State) : Says 0 s s := ⟨.refl s, fun _ h => ⟨rfl, h⟩⟩

theorem Says.trans (h : Says j s t) (h' : Says k t u) : Says (j + k) s u where
  toTalk := h.toTalk.trans h'.toTalk
  smooth n hn := by
    obtain ⟨herr, hacc⟩ := h.smooth (n + k) (hn.mono (by omega))
    obtain ⟨herr', hacc'⟩ := h'.smooth n hacc
    exact ⟨herr'.trans herr, hacc'⟩

theorem Says.mono (h : Says j s t) (hjk : j ≤ k) : Says k s t := ⟨h.toTalk, fun n hn => h.smooth n (hn.mono (by omega))⟩

theorem emit_says (w : ActionWord) (s : State) : Says 0 s (emit w s) := ⟨emit_talk w s, fun _ h => ⟨rfl, h⟩⟩

theorem indicate_says (i : Ind) (s : State) : Says 0 s (indicate i s) := emit_says _ s

theorem indicateLeg_says (x : Leg) (i : Ind) (s : State) : Says 0 s (indicateLeg x i s) := emit_says _ s

theorem asked_accepts {n : Nat} (h : Accepts (n + 1) s) (w : ActionWord) : Accepts n (asked w s) := by
  rw [asked_eq_spoke h.acceptingNext]
  exact h.spoke w

theorem asked_says (w : ActionWord) (s : State) : Says 1 s (asked w s) :=
  ⟨asked_talk w s, fun _ h => ⟨asked_err w s, asked_accepts h w⟩⟩

theorem lrTry_says (line : Byte) (h : BitVec 4) (c : LrCmd) (s : State) : Says 1 s (lrTry line h c s) where
  toTalk := lrTry_talk line h c s
  smooth n hn := by
    rw [lrTry_of_acceptingNext hn.acceptingNext]
    exact ⟨rfl, hn.spoke _⟩

/-! ### Silent functions of the registers -/

/-- `s` with other words, errors and answers. -/
def State.heard (e : ErrRegs) (out : List ActionWord) (answers : List Answer) (drawn : Nat) (s : State) : State :=
  { s with err := e, env := { s.env with out := out, answers := answers, answersDrawn := drawn } }

theorem Talk.eq_heard (h : Talk s t) : t = s.heard t.err t.env.out t.env.answers t.env.answersDrawn := by
  obtain ⟨hpar, hline, hbanks, hconf, htx, hrx, hmwi, hcfg, hmem, hevents, hframes, hdrawn, -, -⟩ := h
  cases t with
  | mk par line banks conf tx rx mwi err cfg mem env =>
    cases env
    simp_all [State.heard]

/-- A reading of the state that words, errors and answers do not change. -/
def Deaf {α : Type} (c : State → α) : Prop := ∀ s e out answers drawn, c (State.heard e out answers drawn s) = c s

/-- A function of the state that neither reads nor writes words, errors and answers. -/
def Silent (p : State → State) : Prop :=
  ∀ s e out answers drawn, p (State.heard e out answers drawn s) = State.heard e out answers drawn (p s)

theorem Deaf.talk {α : Type} {c : State → α} (hc : Deaf c) (h : Talk s t) : c t = c s := by rw [h.eq_heard, hc]

theorem Silent.map {p : State → State} (hp : Silent p) (h : Says k s t) : Says k (p s) (p t) := by
  have hps : p s = State.heard s.err s.env.out s.env.answers s.env.answersDrawn (p s) := hp s _ _ _ _
  have hpt : p t = State.heard t.err t.env.out t.env.answers t.env.answersDrawn (p s) := by
    conv_lhs => rw [h.toTalk.eq_heard]
    exact hp s _ _ _ _
  have herr : (p s).err = s.err := (congrArg State.err hps :)
  have hout : (p s).env.out = s.env.out := (congrArg (fun u => u.env.out) hps :)
  have hans : (p s).env.answers = s.env.answers := (congrArg (fun u => u.env.answers) hps :)
  refine ⟨⟨?_, ?_, ?_, ?_, ?_, ?_, ?_, ?_, ?_, ?_, ?_, ?_, ?_, ?_⟩, fun n hn => ?_⟩
  case refine_13 => rw [hpt, hout]; exact h.out
  case refine_14 => rw [hpt, hans]; exact h.answers
  case refine_15 =>
    rw [Accepts, hans] at hn
    obtain ⟨hno, hacc⟩ := h.smooth n hn
    refine ⟨?_, ?_⟩
    · rw [NoError, hpt, herr]; exact hno
    · rw [hpt]; exact hacc
  all_goals rw [hpt]; rfl

/-- `f` is the silent function `p`, but for what at most `k` commands say. -/
structure Acts (k : Nat) (p f : State → State) : Prop where
  silent : Silent p
  spoken : ∀ s, Says k (p s) (f s)

theorem Silent.out {p : State → State} (hp : Silent p) (s : State) : (p s).env.out = s.env.out :=
  (congrArg (fun u => u.env.out) (hp s s.err s.env.out s.env.answers s.env.answersDrawn) :)

theorem Silent.acts {p : State → State} (hp : Silent p) : Acts 0 p p := ⟨hp, fun _ => .refl _⟩

theorem acts_of_says {f : State → State} (h : ∀ s, Says k s (f s)) : Acts k id f := ⟨fun _ _ _ _ _ => rfl, h⟩

theorem Acts.out {p f : State → State} (h : Acts k p f) (s : State) : s.env.out <+: (f s).env.out :=
  h.silent.out s ▸ (h.spoken s).out

/-- One operation after the other. -/
theorem Acts.then {p f q g : State → State} (h : Acts j p f) (h' : Acts k q g) :
    Acts (j + k) (fun s => q (p s)) (fun s => g (f s)) where
  silent s e out answers drawn := by simp only [h.silent s, h'.silent (p s)]
  spoken s := (h'.silent.map (h.spoken s)).trans (h'.spoken (f s))

/-- One operation after the other, the second silent. -/
theorem Acts.thenSilent {p f q : State → State} (h : Acts j p f) (hq : Silent q) :
    Acts j (fun s => q (p s)) (fun s => q (f s)) := h.then hq.acts

theorem Acts.mono {p f : State → State} (h : Acts j p f) (hjk : j ≤ k) : Acts k p f := ⟨h.silent, fun s => (h.spoken s).mono hjk⟩

/-- A conditional operation. -/
theorem Acts.onlyIf {c : State → Bool} {p f : State → State} (hc : Deaf c) (h : Acts k p f) :
    Acts k (onlyIf c p) (onlyIf c f) where
  silent s e out answers drawn := by
    simp only [Machine.onlyIf, hc s]
    split
    · exact h.silent s e out answers drawn
    · rfl
  spoken s := by
    simp only [Machine.onlyIf]
    split
    · exact h.spoken s
    · exact (Says.refl s).mono (Nat.zero_le k)

/-- One of two operations. -/
theorem Acts.ifElse {c : State → Bool} {p q f g : State → State} (hc : Deaf c) (h : Acts k p f) (h' : Acts k q g) :
    Acts k (ifElse c p q) (ifElse c f g) where
  silent s e out answers drawn := by
    simp only [Machine.ifElse, hc s]
    split
    · exact h.silent s e out answers drawn
    · exact h'.silent s e out answers drawn
  spoken s := by
    simp only [Machine.ifElse]
    split
    · exact h.spoken s
    · exact h'.spoken s

/-- An operation that depends on a reading of the state it begins with. -/
theorem Acts.reading {α : Type} {c : State → α} {p f : α → State → State} (hc : Deaf c) (h : ∀ a, Acts k (p a) (f a)) :
    Acts k (fun s => p (c s) s) (fun s => f (c s) s) where
  silent s e out answers drawn := by simp only [hc s, (h (c s)).silent s]
  spoken s := (h (c s)).spoken s

/-- The silent function may be written in another way. -/
theorem Acts.of_eq {p q f : State → State} (h : Acts k p f) (he : ∀ s, p s = q s) : Acts k q f := by
  obtain rfl : p = q := funext he
  exact h

theorem updLine_silent (f : LineRegs → LineRegs) : Silent (State.updLine f) := fun _ _ _ _ _ => rfl
theorem updBank_silent (x : Leg) (f : Bank → Bank) : Silent (State.updBank x f) := fun _ _ _ _ _ => rfl
theorem updConf_silent (f : ConfRegs → ConfRegs) : Silent (State.updConf f) := fun _ _ _ _ _ => rfl
theorem updTx_silent (f : SpillRegs → SpillRegs) : Silent (State.updTx f) := fun _ _ _ _ _ => rfl
theorem updRx_silent (f : CidRxRegs → CidRxRegs) : Silent (State.updRx f) := fun _ _ _ _ _ => rfl
theorem updMwi_silent (f : MwiRegs → MwiRegs) : Silent (State.updMwi f) := fun _ _ _ _ _ => rfl

theorem lrLeg_acts (x : Leg) (c : LrCmd) : Acts 1 id (lrLeg x c) := acts_of_says fun s => lrTry_says _ _ c s

theorem lrReal_acts (c : LrCmd) : Acts 1 id (lrReal c) := lrLeg_acts .r c

theorem indicateLeg_acts (x : Leg) (i : Ind) : Acts 0 id (indicateLeg x i) := acts_of_says (indicateLeg_says x i)

/-! ### Tones, legs and spills -/

/-- `TONE` is NONE. -/
def toneStopped (s : State) : State := s.updLine fun l => { l with tone := .none }

theorem toneStopped_of_none (h : s.line.tone = .none) : toneStopped s = s := by
  cases s with
  | mk par line => cases line; simp_all [toneStopped, State.updLine]

theorem stopTone_acts : Acts 1 toneStopped stopTone := by
  have h : Acts 1 (onlyIf (fun s => s.line.tone != .none) toneStopped) stopTone :=
    Acts.onlyIf (fun _ _ _ _ _ => rfl) ((lrReal_acts .toneStop).thenSilent (updLine_silent _))
  refine h.of_eq fun s => onlyIf_cases (P := (· = toneStopped s)) (fun _ => rfl) fun hs => ?_
  exact (toneStopped_of_none (by simpa using hs)).symm

theorem startTone_acts (t : Tone) : Acts 1 (State.updLine fun l => { l with tone := t }) (startTone t) :=
  (lrReal_acts _).thenSilent (updLine_silent _)

theorem goTo_acts (x : CallState) : Acts 1 (State.updLine (LineRegs.goneTo x)) (goTo x) := by
  have h : Acts 1 (fun s => (onlyIf (fun s => x != s.line.st) toneStopped s).updLine fun l => { l with st := x }) (goTo x) :=
    (Acts.onlyIf (fun _ _ _ _ _ => rfl) stopTone_acts).thenSilent (updLine_silent _)
  refine h.of_eq fun s => ?_
  by_cases hx : x = s.line.st <;> simp [onlyIf, hx, toneStopped, State.updLine, LineRegs.goneTo]

theorem releaseLeg_acts (x : Leg) : Acts 3 (State.updBank x fun _ => Bank.empty) (releaseLeg x) := by
  have h : Acts (1 + 1 + 1) (fun s => (id (onlyIf (fun s => (s.bank x).linear) id
      (onlyIf (fun s => (s.bank x).cur != descNone) id s))).updBank x fun _ => Bank.empty) (releaseLeg x) :=
    (((Acts.onlyIf (fun _ _ _ _ _ => rfl) (lrLeg_acts x _)).then
      (Acts.onlyIf (fun _ _ _ _ _ => rfl) (lrLeg_acts x _))).then (lrLeg_acts x _)).thenSilent (updBank_silent _ _)
  exact h.of_eq fun s => by simp [onlyIf]

/-- The registers after a spill was discarded, one by one (R259). -/
def discarded (s : State) : State :=
  { s with
    line := { s.line with postwin := 0 }
    banks := { s.banks with real := { s.banks.real with linear := linearAfterDiscard s } }
    conf := { s.conf with confSusp := false, saveconf := descNone }
    tx := SpillRegs.reset }

theorem spillDiscarded_eq (s : State) : spillDiscarded s = discarded s := by
  rw [spillDiscarded, linearRestored]
  cases h : s.tx.linSaved <;>
    simp [h, destroySpill, State.updTx, State.updLine, State.updConf, State.updBank, State.updBanks, Banks.upd, SpillRegs.reset,
      linearAfterDiscard, discarded]

theorem spillDiscard_acts : Acts 1 discarded spillDiscard := by
  have hrestore : Acts 1 (onlyIf (fun s => s.tx.linSaved) fun s =>
      (s.updBank .r fun b => { b with linear := true }).updTx fun t => { t with linSaved := false }) restoreLinear :=
    Acts.onlyIf (fun _ _ _ _ _ => rfl)
      (((lrReal_acts _).thenSilent (updBank_silent _ _)).thenSilent (updTx_silent _))
  have hdestroy : Silent destroySpill := fun _ _ _ _ _ => rfl
  have h := (((hdestroy.acts.thenSilent (updLine_silent fun l => { l with postwin := 0 })).then hrestore).thenSilent
    (updConf_silent fun c => { c with confSusp := false, saveconf := descNone }))
  exact h.of_eq spillDiscarded_eq

theorem applyDefaults_acts : Acts 3 id applyDefaults := by
  have h : Acts 3 id fun s => applyDefaults s := acts_of_says fun s =>
    ((lrTry_says _ _ _ s).trans (lrTry_says _ _ _ _)).trans (lrTry_says _ _ _ _)
  exact h

theorem notifyHangup_acts (x : Leg) (cause : Cause) : Acts 0 id (notifyHangup x cause) :=
  acts_of_says fun s => indicateLeg_says x _ s

theorem notifyIfOwned_acts (cause : Cause) (skip : Option Leg) (x : Leg) : Acts 0 id (notifyIfOwned cause skip x) :=
  acts_of_says fun s => onlyIf_cases (P := Says 0 s) (fun _ => indicateLeg_says x _ s) fun _ => .refl s

/-- The exchange of banks is silent. -/
theorem exchangeBanks_silent (a b : Leg) : Silent (exchangeBanks a b) := by
  intro s e out answers drawn
  cases a <;> cases b <;> rfl

/-! ### Passing -/

/-- `b` is `a` but for the shadow, which a pass writes for allocated banks alone. -/
structure Bank.Alike (a b : Bank) : Prop where
  logical : b.logical = a.logical
  free : a.alloc = false → b = a

theorem Bank.Alike.refl (a : Bank) : a.Alike a := ⟨rfl, fun _ => rfl⟩

theorem Bank.Alike.trans {a b c : Bank} (h : a.Alike b) (h' : b.Alike c) : a.Alike c where
  logical := h'.logical.trans h.logical
  free ha := by
    have hb := h.free ha
    rw [h'.free (hb ▸ ha), hb]

theorem Bank.alike_iff {a b : Bank} : a.Alike b ↔ ∃ d, b = { a with cur := d } ∧ (a.alloc = false → d = a.cur) := by
  constructor
  · rintro ⟨hlog, hfree⟩
    refine ⟨b.cur, ?_, fun ha => by rw [hfree ha]⟩
    cases a; cases b; simp_all [Bank.logical]
  · rintro ⟨d, rfl, hd⟩
    exact ⟨rfl, fun ha => by rw [hd ha]⟩

/-- `t` is `s` but for what reconciliation passes write and at most `k` commands say. -/
structure Passes (k : Nat) (s t : State) : Prop where
  par : t.par = s.par
  line : t.line = s.line
  banks : ∀ x, (s.bank x).Alike (t.bank x)
  conf : t.conf.logical = s.conf.logical
  tx : t.tx = s.tx
  rx : t.rx = s.rx
  mwi : t.mwi = s.mwi
  cfg : t.cfg = s.cfg
  mem : t.mem = s.mem
  events : t.env.events = s.env.events
  frames : t.env.frames = s.env.frames
  framesDrawn : t.env.framesDrawn = s.env.framesDrawn
  out : s.env.out <+: t.env.out
  smooth : ∀ n, Accepts (n + k) s → NoError s t ∧ Accepts n t

theorem Says.passes (h : Says k s t) : Passes k s t :=
  ⟨h.par, h.line, fun x => by rw [h.bank]; exact .refl _, by rw [h.conf], h.tx, h.rx, h.mwi, h.cfg, h.mem, h.events, h.frames,
    h.framesDrawn, h.out, h.smooth⟩

theorem Passes.refl (s : State) : Passes 0 s s := (Says.refl s).passes

theorem Passes.trans (h : Passes j s t) (h' : Passes k t u) : Passes (j + k) s u where
  par := h'.par.trans h.par
  line := h'.line.trans h.line
  banks x := (h.banks x).trans (h'.banks x)
  conf := h'.conf.trans h.conf
  tx := h'.tx.trans h.tx
  rx := h'.rx.trans h.rx
  mwi := h'.mwi.trans h.mwi
  cfg := h'.cfg.trans h.cfg
  mem := h'.mem.trans h.mem
  events := h'.events.trans h.events
  frames := h'.frames.trans h.frames
  framesDrawn := h'.framesDrawn.trans h.framesDrawn
  out := h.out.trans h'.out
  smooth n hn := by
    obtain ⟨herr, hacc⟩ := h.smooth (n + k) (hn.mono (by omega))
    obtain ⟨herr', hacc'⟩ := h'.smooth n hacc
    exact ⟨herr'.trans herr, hacc'⟩

theorem Passes.mono (h : Passes j s t) (hjk : j ≤ k) : Passes k s t :=
  { h with smooth := fun n hn => h.smooth n (hn.mono (by omega)) }

theorem Passes.updLine (h : Passes k s t) (f : LineRegs → LineRegs) : Passes k (s.updLine f) (t.updLine f) :=
  { h with line := congrArg f h.line }

theorem Passes.updMwi (h : Passes k s t) (f : MwiRegs → MwiRegs) : Passes k (s.updMwi f) (t.updMwi f) :=
  { h with mwi := congrArg f h.mwi }

theorem Passes.updRx (h : Passes k s t) (f : CidRxRegs → CidRxRegs) : Passes k (s.updRx f) (t.updRx f) :=
  { h with rx := congrArg f h.rx }

theorem Passes.updTx (h : Passes k s t) (f : SpillRegs → SpillRegs) : Passes k (s.updTx f) (t.updTx f) :=
  { h with tx := congrArg f h.tx }

theorem Passes.updBank (h : Passes k s t) {x : Leg} {f : Bank → Bank} (hf : ∀ a b, Bank.Alike a b → (f a).Alike (f b)) :
    Passes k (s.updBank x f) (t.updBank x f) :=
  { h with
    banks := fun y => by
      rw [State.bank_updBank, State.bank_updBank]
      split
      · exact hf _ _ (h.banks y)
      · exact h.banks y }

theorem Passes.lineId (h : Passes k s t) : lineId t = lineId s := congrArg cfgLineId h.cfg

theorem Passes.noError (h : Passes k u t) (herr : u.err = s.err) (hans : u.env.answers = s.env.answers) (hk : k ≤ 64)
    (hs : Accepting s) : NoError s t := by
  have hu : Accepts (0 + k) u := by
    rw [Accepts, hans]
    exact hs.accepts.mono (by omega)
  exact (h.smooth 0 hu).1.trans herr

theorem Says.noError (h : Says k u t) (herr : u.err = s.err) (hans : u.env.answers = s.env.answers) (hk : k ≤ 64)
    (hs : Accepting s) : NoError s t := h.passes.noError herr hans hk hs

/-- A line rule writes line, banks, conference and spill registers alone. -/
theorem Passes.callFrame (h : Passes k u t) (hpar : u.par = s.par) (hrx : u.rx = s.rx) (hmwi : u.mwi = s.mwi)
    (hcfg : u.cfg = s.cfg) (hmem : u.mem = s.mem) (hevents : u.env.events = s.env.events)
    (hframes : u.env.frames = s.env.frames) : CallFrame s t where
  par := h.par.trans hpar
  rx := h.rx.trans hrx
  mwi := h.mwi.trans hmwi
  cfg := h.cfg.trans hcfg
  bytes := .of_mem (h.mem.trans hmem)
  inputs := ⟨h.events.trans hevents, h.frames.trans hframes⟩

/-! ### The pass (R222) -/

theorem nextAnswer_of_accepts {n : Nat} (h : Accepts (n + 1) s) : nextAnswer s = .ok := nextAnswer_of_head? h.acceptingNext

/-- Where the answer is not `OK`, nothing is promised of accepted answers. -/
theorem Talk.of_refused (h : Talk s t) (hs : nextAnswer s = .notOk) : Says 1 s t :=
  ⟨h, fun _ hn => absurd (hs.symm.trans (nextAnswer_of_accepts hn)) (by decide)⟩

/-- A command of a pass: the accepted branch passes, the refused one only talks. -/
theorem lrCase_passes {line : Byte} {f : BitVec 4} {c : LrCmd} {ok notOk : State → State}
    (hok : ∀ t, Passes k t (ok t)) (hno : ∀ t, Talk t (notOk t)) (s : State) : Passes (k + 1) s (lrCase line f c ok notOk s) := by
  rw [lrCase_eq]
  cases hans : nextAnswer s with
  | ok => exact ((asked_says _ s).passes.trans (hok _)).mono (by omega)
  | notOk => exact (((asked_talk _ s).trans (hno _)).of_refused hans).passes.mono (by omega)

/-- Writing the conference number passes. -/
theorem updConfno_passes (v : Bool) (n : Byte) (s : State) :
    Passes 0 s (s.updConf fun c => { c with confnoV := v, confno := n }) :=
  { Passes.refl s with conf := rfl }

theorem updateConfno_passes (s : State) : Passes 0 s (updateConfno s) := by
  unfold updateConfno
  split
  · exact updConfno_passes _ _ s
  · split
    · exact updConfno_passes _ _ s
    · exact .refl s

theorem updCur_passes {x : Leg} (d : Descriptor) (h : (s.bank x).alloc = true) :
    Passes 0 s (s.updBank x fun b => { b with cur := d }) :=
  { Passes.refl s with
    banks := fun y => by
      rw [State.bank_updBank]
      split
      · next hy => subst hy; exact ⟨rfl, fun hf => absurd (h.symm.trans hf) (by decide)⟩
      · exact .refl _ }

theorem setSlaveCur_passes (i : Nat) (d : Descriptor) (s : State) : Passes 0 s (setSlaveCur i d s) :=
  { Passes.refl s with conf := (setSlaveCur_frame i d s).conf }

theorem reconcileLeg_passes (x : Leg) (s : State) : Passes 1 s (reconcileLeg x s) := by
  rw [reconcileLeg]
  split
  · next h =>
    have halloc : (s.bank x).alloc = true := by simp only [Bool.and_eq_true] at h; exact h.1
    rw [lrCase_eq]
    cases hans : nextAnswer s with
    | ok => exact (asked_says _ s).passes.trans (updCur_passes _ (by rw [(asked_talk _ s).bank]; exact halloc))
    | notOk => exact (((asked_talk _ s).trans (raise_talk _ _)).of_refused hans).passes
  · exact (Passes.refl s).mono (by omega)

theorem reconcileSlave_passes (i : Nat) (s : State) : Passes 1 s (reconcileSlave i s) := by
  rw [reconcileSlave]
  split
  · exact lrCase_passes (setSlaveCur_passes i _) (raise_talk _) s
  · exact (Passes.refl s).mono (by omega)

/-- A pass writes shadows and the conference number, and emits at most seven commands (R222, R225). -/
theorem reconcilePass_passes (s : State) : Passes 7 s (reconcilePass s) :=
  (updateConfno_passes s).trans <| (reconcileLeg_passes .r _).trans <| (reconcileLeg_passes .cw _).trans <|
    (reconcileLeg_passes .tw _).trans <| (reconcileSlave_passes 0 _).trans <| (reconcileSlave_passes 1 _).trans <|
    (reconcileSlave_passes 2 _).trans (reconcileSlave_passes 3 _)

/-- A procedure that ends with a pass. -/
theorem Says.thenPass (h : Says k s t) : Passes (k + 7) s (reconcilePass t) := h.passes.trans (reconcilePass_passes t)

theorem Acts.thenPass {p f : State → State} (h : Acts k p f) (s : State) : Passes (k + 7) (p s) (reconcilePass (f s)) :=
  (h.spoken s).thenPass

theorem Acts.outThenPass {p f : State → State} (h : Acts k p f) (s : State) : s.env.out <+: (reconcilePass (f s)).env.out :=
  (h.out s).trans (reconcilePass_passes _).out

end Sys2Proof.Machine

end

/-! PROOFS. Line hangup (`LINEDOWN`, spec/40_hook_events.md R136): what it leaves, whom it tells, and the words that hang up. -/

section

namespace Sys2Proof.Machine

variable {s t u : State} {j k : Nat} {w : ActionWord}

/-! ### Words among those of a step -/

/-- `w` is among the words said between `s` and `t`. -/
def Told (w : ActionWord) (s t : State) : Prop := ∃ ws, t.env.out = s.env.out ++ ws ∧ w ∈ ws

theorem Told.newWords (h : Told w s t) : w ∈ newWords s t := by
  obtain ⟨ws, hout, hw⟩ := h
  rw [Machine.newWords, hout, List.drop_left]
  exact hw

theorem Told.after (h : s.env.out <+: t.env.out) (h' : Told w t u) : Told w s u := by
  obtain ⟨vs, hvs⟩ := h
  obtain ⟨ws, hout, hw⟩ := h'
  exact ⟨vs ++ ws, by rw [hout, ← hvs, List.append_assoc], List.mem_append_right vs hw⟩

theorem Told.before (h : Told w s t) (h' : t.env.out <+: u.env.out) : Told w s u := by
  obtain ⟨ws, hout, hw⟩ := h
  obtain ⟨vs, hvs⟩ := h'
  exact ⟨ws ++ vs, by rw [← hvs, hout, List.append_assoc], List.mem_append_left vs hw⟩

/-- The words begin with those of the first part. -/
theorem newWords_append {ws : List ActionWord} (h : t.env.out = s.env.out ++ ws) (h' : t.env.out <+: u.env.out) :
    ∃ vs, newWords s u = ws ++ vs := by
  obtain ⟨vs, hvs⟩ := h'
  exact ⟨vs, by rw [Machine.newWords, ← hvs, h, List.append_assoc, List.drop_left]⟩

theorem newWords_head? (h : t.env.out = s.env.out ++ [w]) (h' : t.env.out <+: u.env.out) : (newWords s u).head? = some w := by
  obtain ⟨vs, hvs⟩ := newWords_append h h'
  rw [hvs]
  rfl

theorem emit_told (w : ActionWord) (s : State) : Told w s (emit w s) := ⟨[w], rfl, by simp⟩

theorem asked_told (w : ActionWord) (s : State) : Told w s (asked w s) := ⟨[w], asked_out w s, by simp⟩

theorem lrTry_told (line : Byte) (h : BitVec 4) (c : LrCmd) (s : State) : Told (lrWord line h c) s (lrTry line h c s) :=
  lrCase_cases (P := Told _ s) (asked_told _ s) ((asked_told _ s).before (raise_talk _ _).out)

theorem lrReal_told (c : LrCmd) (s : State) : Told (lrWord (lineId s) (realH s) c) s (lrReal c s) := lrTry_told _ _ c s

theorem lrLeg_told (x : Leg) (c : LrCmd) (s : State) : Told (lrWord (lineId s) (legH x s) c) s (lrLeg x c s) :=
  lrTry_told _ _ c s

theorem Talk.lineId (h : Talk s t) : lineId t = lineId s := congrArg cfgLineId h.cfg

/-! ### `LINEDOWN` (R136) -/

/-- Step 1 of `LINEDOWN`: the owners are told. -/
def lineDownNotices (cause : Cause) (skip : Option Leg) (s : State) : State :=
  s |> notifyIfOwned cause skip .r |> notifyIfOwned cause skip .cw |> notifyIfOwned cause skip .tw

/-- `LINEDOWN` from there to the command that hangs up the line. -/
def lineDownCalls (s : State) : State :=
  s |> stopTone
    |> onlyIf (fun s => s.line.ringing && s.line.calldir == .outRing) (lrReal (.setHook .ringOff))
    |> spillDiscard
    |> onlyIf (fun s => s.banks.cw.alloc) (releaseLeg .cw)
    |> onlyIf (fun s => s.banks.tw.alloc) (releaseLeg .tw)
    |> State.updBank .r Bank.hungUp

/-- `LINEDOWN` after that command, but for the pass; `guard` is `GUARD_MS`. -/
def lineDownRest (guard : Half) (s : State) : State :=
  s |> State.updLine (fun l => { l with hook := false })
    |> applyDefaults
    |> onlyIf (fun s => s.banks.real.linear) (fun s =>
        s |> lrReal (.setLinear false) |> State.updBank .r (fun b => { b with linear := false }))
    |> State.updLine LineRegs.hungUp
    |> cidrxReset
    |> State.updLine (fun l => { l with guardUntil := l.now + guard.setWidth 32, st := .releasing })

theorem lineDown_eq (cause : Cause) (skip : Option Leg) (s : State) :
    lineDown cause skip s =
      reconcilePass (lineDownRest (cfgGuardMs s.cfg) (lrReal (.setHook .onHook) (lineDownCalls (lineDownNotices cause skip s)))) := rfl

/-- A bank after its call was dropped. -/
def Bank.dropped (b : Bank) : Bank := if b.alloc then Bank.empty else b

theorem Bank.dropped_alloc (b : Bank) : b.dropped.alloc = false := by
  rw [Bank.dropped]
  split
  · rfl
  · next ha => simpa using ha

/-- The registers when the line is about to be hung up. -/
def callsDown (s : State) : State :=
  { s with
    line := { s.line with tone := .none, postwin := 0 }
    banks :=
      { real := { s.banks.real with linear := linearAfterDiscard s }.hungUp
        cw := s.banks.cw.dropped
        tw := s.banks.tw.dropped }
    conf := { s.conf with confSusp := false, saveconf := descNone }
    tx := SpillRegs.reset }

/-- A leg is released, in whatever way, if it is allocated. -/
theorem dropLeg_acts {x : Leg} {f : State → State} (h : Acts k (State.updBank x fun _ => Bank.empty) f) :
    Acts k (State.updBank x Bank.dropped) (onlyIf (fun s => (s.bank x).alloc) f) := by
  refine (Acts.onlyIf (fun _ _ _ _ _ => rfl) h).of_eq fun s => ?_
  cases ha : (s.bank x).alloc
  · rw [onlyIf_false ha, State.updBank_of_fixed (by simp [Bank.dropped, ha])]
  · rw [onlyIf_true (by exact ha)]
    cases x <;> simp_all [State.updBank, State.updBanks, Banks.upd, Bank.dropped]

theorem lineDownNotices_acts (cause : Cause) (skip : Option Leg) : Acts 0 id (lineDownNotices cause skip) :=
  ((notifyIfOwned_acts cause skip .r).then (notifyIfOwned_acts cause skip .cw)).then (notifyIfOwned_acts cause skip .tw)

theorem lineDownCalls_acts : Acts 9 callsDown lineDownCalls := by
  have hring : Acts 1 id (onlyIf (fun s => s.line.ringing && s.line.calldir == .outRing) (lrReal (.setHook .ringOff))) :=
    acts_of_says fun s => onlyIf_cases (P := Says 1 s) (fun _ => lrTry_says _ _ _ s) fun _ => (Says.refl s).mono (by omega)
  have h := ((((stopTone_acts.then hring).then spillDiscard_acts).then (dropLeg_acts (releaseLeg_acts .cw))).then
    (dropLeg_acts (releaseLeg_acts .tw))).thenSilent (updBank_silent .r Bank.hungUp)
  exact h.of_eq fun _ => rfl

/-- The registers after `LINEDOWN` (R136). -/
def downed (s : State) : State :=
  { s with
    line :=
      { s.line with
        st := .releasing, hook := false, ringing := false, ringt := 0, pol := false, calldir := .none, prering := false,
        flashV := false, answered := false, dialPending := false, dialing := false, diallen := 0, tone := .none,
        cwrepeat := 0, postwin := 0, curleg := none, guardUntil := s.line.now + (cfgGuardMs s.cfg).setWidth 32 }
    banks :=
      { real := { Bank.empty with alloc := s.banks.real.alloc, res := s.banks.real.res, cur := s.banks.real.cur }
        cw := s.banks.cw.dropped
        tw := s.banks.tw.dropped }
    conf := { s.conf with confSusp := false, saveconf := descNone }
    tx := SpillRegs.reset
    rx := CidRxRegs.reset }

/-- The registers that the rest of `LINEDOWN` writes. -/
def restDown (guard : Half) (s : State) : State :=
  { s with
    line := { { s.line with hook := false }.hungUp with
      guardUntil := s.line.now + guard.setWidth 32, st := .releasing }
    banks := { s.banks with real := { s.banks.real with linear := false } }
    rx := CidRxRegs.reset }

/-- Real leaves its linear mode if it is in it. -/
theorem clearLinear_acts :
    Acts 1 (State.updBank .r fun b => { b with linear := false })
      (onlyIf (fun s => s.banks.real.linear) fun s =>
        s |> lrReal (.setLinear false) |> State.updBank .r (fun b => { b with linear := false })) := by
  refine (Acts.onlyIf (fun _ _ _ _ _ => rfl) ((lrReal_acts _).thenSilent (updBank_silent _ _))).of_eq fun s => ?_
  cases h : s.banks.real.linear
  · rw [onlyIf_false h, State.updBank_of_fixed]
    simp [← h]
  · rw [onlyIf_true h]
    rfl

theorem lineDownRest_acts (guard : Half) : Acts 4 (restDown guard) (lineDownRest guard) :=
  ((((((updLine_silent fun l => { l with hook := false }).acts.then applyDefaults_acts).then clearLinear_acts).thenSilent
    (updLine_silent LineRegs.hungUp)).thenSilent (updRx_silent fun _ => CidRxRegs.reset)).thenSilent
    (updLine_silent fun l => { l with guardUntil := l.now + guard.setWidth 32, st := .releasing })).of_eq fun _ => rfl

theorem lineDown_passes (cause : Cause) (skip : Option Leg) (s : State) : Passes 21 (downed s) (lineDown cause skip s) :=
  ((((lineDownNotices_acts cause skip).then lineDownCalls_acts).then (lrReal_acts (.setHook .onHook))).then
    (lineDownRest_acts (cfgGuardMs s.cfg))).thenPass s

theorem notifyIfOwned_told {x : Leg} {cause : Cause} {skip : Option Leg} (hx : (s.bank x).owned = true) (hskip : skip ≠ some x)
    (h : Talk s t) :
    Told (indWord (lineId s) (legField4 x) (.hangup (s.bank x).owner cause)) t (notifyIfOwned cause skip x t) := by
  rw [notifyIfOwned, onlyIf_true (by simp [h.bank, hx, hskip]), ← h.lineId, ← h.bank]
  exact emit_told _ _

theorem lineDownNotices_told {x : Leg} {cause : Cause} {skip : Option Leg} (hx : (s.bank x).owned = true)
    (hskip : skip ≠ some x) :
    Told (indWord (lineId s) (legField4 x) (.hangup (s.bank x).owner cause)) s (lineDownNotices cause skip s) := by
  let s₁ := notifyIfOwned cause skip .r s
  let s₂ := notifyIfOwned cause skip .cw s₁
  have h₁ : Talk s s₁ := ((notifyIfOwned_acts cause skip .r).spoken s).toTalk
  have h₂ : Talk s₁ s₂ := ((notifyIfOwned_acts cause skip .cw).spoken s₁).toTalk
  have h₃ : Talk s₂ (lineDownNotices cause skip s) := ((notifyIfOwned_acts cause skip .tw).spoken s₂).toTalk
  cases x with
  | r => exact (notifyIfOwned_told hx hskip (.refl s)).before (h₂.trans h₃).out
  | cw => exact ((notifyIfOwned_told hx hskip h₁).before h₃.out).after h₁.out
  | tw => exact (notifyIfOwned_told hx hskip (h₁.trans h₂)).after (h₁.trans h₂).out

/-- `LINEDOWN` tells every owner but the one to skip (R136 step 1). -/
theorem lineDown_told {x : Leg} {cause : Cause} {skip : Option Leg} (hx : (s.bank x).owned = true) (hskip : skip ≠ some x) :
    Told (indWord (lineId s) (legField4 x) (.hangup (s.bank x).owner cause)) s (lineDown cause skip s) := by
  have hrest := ((lineDownCalls_acts.then (lrReal_acts (.setHook .onHook))).then
    (lineDownRest_acts (cfgGuardMs s.cfg))).outThenPass (lineDownNotices cause skip s)
  rw [lineDown_eq]
  exact (lineDownNotices_told hx hskip).before hrest

/-- `LINEDOWN` hangs up the line (R136). -/
theorem lineDown_commanded (cause : Cause) (skip : Option Leg) (s : State) :
    Told (lrWord (lineId s) (handleField s.banks.real.res) (.setHook .onHook)) s (lineDown cause skip s) := by
  have hcalls : Talk (callsDown s) (lineDownCalls (lineDownNotices cause skip s)) :=
    (((lineDownNotices_acts cause skip).then lineDownCalls_acts).spoken s).toTalk
  have hword := lrReal_told (.setHook .onHook) (lineDownCalls (lineDownNotices cause skip s))
  rw [hcalls.lineId, realH, hcalls.banks] at hword
  rw [lineDown_eq]
  exact (hword.before ((lineDownRest_acts (cfgGuardMs s.cfg)).outThenPass _)).after
    (((lineDownNotices_acts cause skip).then lineDownCalls_acts).out s)

/-- What `LINEDOWN` leaves (R136). -/
theorem lineDown_hungUp (cause : Cause) (skip : Option Leg) (s : State) : HungUp cause skip s (lineDown cause skip s) := by
  have h := lineDown_passes cause skip s
  exact
    { par := h.par, line := h.line, real := (h.banks .r).logical, cw := (h.banks .cw).free (Bank.dropped_alloc _),
      tw := (h.banks .tw).free (Bank.dropped_alloc _), conf := h.conf, tx := h.tx, rx := h.rx, mwi := h.mwi, cfg := h.cfg,
      bytes := .of_mem h.mem, inputs := ⟨h.events, h.frames⟩, told := fun _ hx hskip => (lineDown_told hx hskip).newWords,
      commanded := (lineDown_commanded cause skip s).newWords }

theorem lineDown_noError (cause : Cause) (skip : Option Leg) (hs : Accepting s) : NoError s (lineDown cause skip s) :=
  (lineDown_passes cause skip s).noError rfl rfl (by decide) hs

end Sys2Proof.Machine

end

/-! PROOFS. The packed registers of R37 and `RDREG` (O39).

Every packed word is a row of appended fields: a field is found by dropping the fields below it (`slice_append_high`,
`getLsbD_append_high`) until it is the lowest one. -/

section

namespace Sys2Proof.Machine

open Sys2Proof.Config (Law)

/-! ### Fields of appended vectors -/

section Fields

variable {m n : Nat} (x : BitVec m) (y : BitVec n)

theorem slice_append_high {lo : Nat} (k : Nat) (h : n ≤ lo) : slice (x ++ y) lo k = slice x (lo - n) k :=
  BitVec.extractLsb'_append_eq_of_le h

theorem slice_append_low : slice (x ++ y) 0 n = y := by
  rw [slice, BitVec.extractLsb'_append_eq_of_add_le (by omega), BitVec.extractLsb'_eq_self]

theorem slice_self : slice y 0 n = y := BitVec.extractLsb'_eq_self

theorem getLsbD_append_high {i : Nat} (h : n ≤ i) : (x ++ y).getLsbD i = x.getLsbD (i - n) := by
  rw [BitVec.getLsbD_append, if_neg (by omega)]

theorem bit_getLsbD (b : Bool) : (bit b).getLsbD 0 = b := by cases b <;> rfl

theorem getLsbD_append_bit (b : Bool) : (x ++ bit b).getLsbD 0 = b := by
  rw [BitVec.getLsbD_append, if_pos (by decide), bit_getLsbD]

end Fields

/-! ### The packed registers (R37) -/

theorem lineWord_fields (l : LineRegs) :
    slice (lineWord l) 0 3 = l.st.code ∧ slice (lineWord l) 3 3 = l.tone.code ∧ slice (lineWord l) 6 2 = curlegCode l.curleg ∧
    slice (lineWord l) 8 2 = l.calldir.code ∧ (lineWord l).getLsbD 10 = l.hook ∧ (lineWord l).getLsbD 11 = l.ringing ∧
    (lineWord l).getLsbD 12 = l.pol ∧ (lineWord l).getLsbD 13 = l.prering ∧ (lineWord l).getLsbD 14 = l.inalarm ∧
    (lineWord l).getLsbD 15 = l.configured := by
  rw [lineWord]
  refine ⟨?_, ?_, ?_, ?_, ?_, ?_, ?_, ?_, ?_, ?_⟩
  all_goals repeat rw [slice_append_high _ _ _ (by decide)]
  all_goals repeat rw [getLsbD_append_high _ _ (by decide)]
  all_goals first | exact slice_append_low _ _ | exact getLsbD_append_bit _ _ | exact bit_getLsbD _

theorem dialWord_fields (l : LineRegs) :
    slice (dialWord l) 0 8 = l.diallen ∧ (dialWord l).getLsbD 8 = l.dialPending ∧ (dialWord l).getLsbD 9 = l.dialing ∧
    (dialWord l).getLsbD 10 = l.flashV ∧ (dialWord l).getLsbD 11 = l.answered ∧ slice (dialWord l) 12 4 = 0 := by
  rw [dialWord]
  refine ⟨?_, ?_, ?_, ?_, ?_, ?_⟩
  all_goals repeat rw [slice_append_high _ _ _ (by decide)]
  all_goals repeat rw [getLsbD_append_high _ _ (by decide)]
  all_goals first | exact slice_append_low _ _ | exact getLsbD_append_bit _ _ | exact slice_self _

theorem errWord_fields (e : ErrRegs) :
    slice (errWord e) 0 8 = e.lasterr ∧ slice (errWord e) 8 5 = 0 ∧ slice (errWord e) 13 3 = e.lasterrClass := by
  rw [errWord]
  refine ⟨?_, ?_, ?_⟩
  all_goals repeat rw [slice_append_high _ _ _ (by decide)]
  all_goals first | exact slice_append_low _ _ | exact slice_self _

theorem bankWord_fields (b : Bank) :
    (bankWord b).getLsbD 0 = b.alloc ∧ (slice (bankWord b) 1 2).toNat = b.res.val ∧ (bankWord b).getLsbD 3 = b.owned ∧
    (bankWord b).getLsbD 4 = b.in3way ∧ (bankWord b).getLsbD 5 = b.linear ∧ slice (bankWord b) 6 7 = b.pend ∧
    slice (bankWord b) 13 3 = 0 := by
  have hres : (BitVec.ofNat 2 b.res.val).toNat = b.res.val := by
    rw [BitVec.toNat_ofNat]
    exact Nat.mod_eq_of_lt (b.res.isLt.trans (by decide))
  rw [bankWord]
  refine ⟨?_, ?_, ?_, ?_, ?_, ?_, ?_⟩
  all_goals repeat rw [slice_append_high _ _ _ (by decide)]
  all_goals repeat rw [getLsbD_append_high _ _ (by decide)]
  case refine_2 => exact (congrArg BitVec.toNat (slice_append_low _ _)).trans hres
  all_goals first | exact slice_append_low _ _ | exact getLsbD_append_bit _ _ | exact slice_self _

theorem confWord_fields (c : ConfRegs) :
    slice (confWord c) 0 8 = c.confno ∧ slice (confWord c) 8 2 = 0 ∧ slice (confWord c) 10 3 = c.nslaves ∧
    (confWord c).getLsbD 13 = c.confSusp ∧ (confWord c).getLsbD 14 = c.inconf ∧ (confWord c).getLsbD 15 = c.confnoV := by
  rw [confWord]
  refine ⟨?_, ?_, ?_, ?_, ?_, ?_⟩
  all_goals repeat rw [slice_append_high _ _ _ (by decide)]
  all_goals repeat rw [getLsbD_append_high _ _ (by decide)]
  all_goals first | exact slice_append_low _ _ | exact getLsbD_append_bit _ _ | exact bit_getLsbD _

theorem masterWord_fields (c : ConfRegs) :
    slice (masterWord c) 0 8 = c.masterId ∧ slice (masterWord c) 8 5 = 0 ∧ (masterWord c).getLsbD 13 = c.masterConfnoV ∧
    (masterWord c).getLsbD 14 = c.masterNative ∧ (masterWord c).getLsbD 15 = c.masterV := by
  rw [masterWord]
  refine ⟨?_, ?_, ?_, ?_, ?_⟩
  all_goals repeat rw [slice_append_high _ _ _ (by decide)]
  all_goals repeat rw [getLsbD_append_high _ _ (by decide)]
  all_goals first | exact slice_append_low _ _ | exact getLsbD_append_bit _ _ | exact bit_getLsbD _

theorem slaveWord_fields (v : Slave) :
    slice (slaveWord v) 0 8 = v.id ∧ slice (slaveWord v) 8 7 = 0 ∧ (slaveWord v).getLsbD 15 = decide (v.law = .a) := by
  have hlaw : lawBit v.law = decide (v.law = .a) := by cases v.law <;> rfl
  rw [slaveWord, ← hlaw]
  refine ⟨?_, ?_, ?_⟩
  all_goals repeat rw [slice_append_high _ _ _ (by decide)]
  all_goals repeat rw [getLsbD_append_high _ _ (by decide)]
  all_goals first | exact slice_append_low _ _ | exact bit_getLsbD _

theorem spillWord_fields (t : SpillRegs) :
    slice (spillWord t) 0 2 = t.kind.code ∧ (spillWord t).getLsbD 2 = t.linSaved ∧ (spillWord t).getLsbD 3 = t.go ∧
    slice (spillWord t) 4 12 = 0 := by
  rw [spillWord]
  refine ⟨?_, ?_, ?_, ?_⟩
  all_goals repeat rw [slice_append_high _ _ _ (by decide)]
  all_goals repeat rw [getLsbD_append_high _ _ (by decide)]
  all_goals first | exact slice_append_low _ _ | exact getLsbD_append_bit _ _ | exact slice_self _

theorem cidrxWord_fields (r : CidRxRegs) :
    slice (cidrxWord r) 0 3 = r.st.code ∧ slice (cidrxWord r) 3 2 = r.ngap ∧ (cidrxWord r).getLsbD 5 = r.dtmfOpen ∧
    (cidrxWord r).getLsbD 6 = r.cidValid ∧ (cidrxWord r).getLsbD 7 = r.dringOn ∧ (cidrxWord r).getLsbD 8 = r.dringDone ∧
    (cidrxWord r).getLsbD 9 = r.resultSent ∧ slice (cidrxWord r) 10 6 = 0 := by
  rw [cidrxWord]
  refine ⟨?_, ?_, ?_, ?_, ?_, ?_, ?_, ?_⟩
  all_goals repeat rw [slice_append_high _ _ _ (by decide)]
  all_goals repeat rw [getLsbD_append_high _ _ (by decide)]
  all_goals first | exact slice_append_low _ _ | exact getLsbD_append_bit _ _ | exact slice_self _

theorem mwiWord_fields (m : MwiRegs) :
    slice (mwiWord m) 0 3 = m.st.code ∧ (mwiWord m).getLsbD 3 = m.pending ∧ (mwiWord m).getLsbD 4 = m.msgs ∧
    slice (mwiWord m) 5 11 = 0 := by
  rw [mwiWord]
  refine ⟨?_, ?_, ?_, ?_⟩
  all_goals repeat rw [slice_append_high _ _ _ (by decide)]
  all_goals repeat rw [getLsbD_append_high _ _ (by decide)]
  all_goals first | exact slice_append_low _ _ | exact getLsbD_append_bit _ _ | exact slice_self _

/-- Two registers of eight bits in one word. -/
theorem bytePair_fields (hi lo : Byte) : slice (hi ++ lo : Half) 0 8 = lo ∧ slice (hi ++ lo : Half) 8 8 = hi :=
  ⟨slice_append_low hi lo, (slice_append_high hi lo 8 (by decide)).trans (slice_self hi)⟩

/-- A 32-bit register is its two halves. -/
theorem highHalf_append_lowHalf (w : Word) : highHalf w ++ lowHalf w = w := by
  refine BitVec.eq_of_getLsbD_eq fun i hi => ?_
  rw [BitVec.getLsbD_append, lowHalf, highHalf, slice, slice, BitVec.getLsbD_extractLsb', BitVec.getLsbD_extractLsb']
  split
  · next h => simp [h]
  · next h => simp [show i - 16 < 16 by omega, show 16 + (i - 16) = i by omega]

/-! ### `RDREG` (R384) -/

/-- The numbers of R37 that are no register read 0. -/
theorem stateReg16_of_unlisted {n : Nat} (h : n < 0x80 ∨ 0xB5 ≤ n) (s : State) : stateReg16 n s = 0 := by
  unfold stateReg16
  split <;> first | omega | rfl

theorem reg16_of_cfg {reg : Byte} (h : reg < 0x1D) (s : State) : reg16 reg s = cfgRead s.cfg reg.toNat := by
  have hlt : reg < 0x40#8 := by bv_omega
  rw [reg16, if_pos hlt]

theorem reg16_of_unlisted {reg : Byte} (h : 0x1D ≤ reg ∧ reg < 0x80 ∨ 0xB5 ≤ reg) (s : State) : reg16 reg s = 0 := by
  rw [reg16]
  split
  · next hlt =>
    have hge : ¬ reg.toNat < cfgCount := by
      have : 29 ≤ reg.toNat := by bv_omega
      exact Nat.not_lt.mpr this
    simp [cfgRead, hge]
  · exact stateReg16_of_unlisted (by bv_omega) s

theorem exec_hostRdreg (reg : Byte) (s : State) :
    exec (.hostRdreg reg) s = .next (said [indWord (lineId s) 0xF (.regVal (reg16 reg s) reg)] s) := rfl

end Sys2Proof.Machine

namespace Sys2Proof

open Sys2Proof.Machine

/-- Settles O39: a register number selects its word, whose fields stand where R37 puts them. -/
theorem rdregWord : Obligations.RdregWord := by
  intro s reg
  obtain ⟨hst, htone, hcurleg, hcalldir, hhook, hringing, hpol, hprering, hinalarm, hconfigured⟩ := lineWord_fields s.line
  obtain ⟨hdiallen, hdialPending, hdialing, hflashV, hanswered, hdialZero⟩ := dialWord_fields s.line
  obtain ⟨hlasterr, herrZero, hclass⟩ := errWord_fields s.err
  obtain ⟨hconfno, hconfZero, hnslaves, hsusp, hinconf, hconfnoV⟩ := confWord_fields s.conf
  obtain ⟨hmaster, hmasterZero, hmasterConfnoV, hmasterNative, hmasterV⟩ := masterWord_fields s.conf
  obtain ⟨hkind, hlinSaved, hgo, hspillZero⟩ := spillWord_fields s.tx
  obtain ⟨hrxst, hngap, hopen, hvalid, hdringOn, hdringDone, hsent, hrxZero⟩ := cidrxWord_fields s.rx
  obtain ⟨hmwi, hpending, hmsgs, hmwiZero⟩ := mwiWord_fields s.mwi
  obtain ⟨hringcnt, hsettle⟩ := bytePair_fields s.rx.settle s.rx.ringcnt
  obtain ⟨hctx, hdtmflen⟩ := bytePair_fields s.rx.dtmflen s.rx.ctx
  refine ⟨exec_hostRdreg reg s, fun h => reg16_of_cfg h s, fun h => reg16_of_unlisted h s, hst, htone, hcurleg, hcalldir, hhook,
    hringing, hpol, hprering, hinalarm, hconfigured, rfl, highHalf_append_lowHalf _, highHalf_append_lowHalf _, hdiallen,
    hdialPending, hdialing, hflashV, hanswered, hdialZero, highHalf_append_lowHalf _, highHalf_append_lowHalf _, rfl, rfl, rfl,
    hlasterr, herrZero, hclass, rfl, fun x => ?bank, hconfno, hconfZero, hnslaves, hsusp, hinconf, hconfnoV, rfl, hmaster,
    hmasterZero, hmasterConfnoV, hmasterNative, hmasterV, rfl, fun i => ?slave, hkind, hlinSaved, hgo, hspillZero, rfl, rfl, hrxst,
    hngap, hopen, hvalid, hdringOn, hdringDone, hsent, hrxZero, rfl, hringcnt, hsettle, rfl, fun i => ?gap, hctx, hdtmflen, hmwi,
    hpending, hmsgs, hmwiZero, highHalf_append_lowHalf _, highHalf_append_lowHalf _⟩
  case bank =>
    obtain ⟨halloc, hres, howned, hin3way, hlinear, hpend, hzero⟩ := bankWord_fields (s.bank x)
    cases x <;> exact ⟨halloc, hres, howned, hin3way, hlinear, hpend, hzero, rfl, rfl⟩
  case slave =>
    obtain ⟨hid, hzero, hlaw⟩ := slaveWord_fields s.conf.slaves[i]
    fin_cases i <;> exact ⟨hid, hzero, hlaw, rfl⟩
  case gap => fin_cases i <;> rfl

end Sys2Proof

end

/-! PROOFS. Access to the buffers (O38), `CFGDONE` (O36), `RESET` (O6, O37) and what the entries let through (O20). -/

section

namespace Sys2Proof.Machine

variable {s t u : State} {i : Instr}

/-! ### `MEMWR` and `MEMRD` (R383, R385) -/

/-- The host's spaces are the first two (R383). -/
theorem hostWritable_iff {space : BitVec 3} {sp : Space} (h : spaceOf space = some sp) :
    sp.hostWritable = true ↔ space ≤ 1 := by
  revert h
  revert space
  cases sp <;> decide

theorem hostMemwrBody_legal {space : BitVec 3} {sp : Space} (h : spaceOf space = some sp) (hspace : space ≤ 1) {addr : Byte}
    (haddr : addr.toNat < sp.size s.par) (data : Byte) :
    hostMemwrBody space addr data s = wr sp addr.toNat [data] s := by
  simp [hostMemwrBody, h, (hostWritable_iff h).mpr hspace, haddr]

theorem hostMemwrBody_illegal {space : BitVec 3} {sp : Space} (h : spaceOf space = some sp) {addr : Byte}
    (haddr : 1 < space ∨ sp.size s.par ≤ addr.toNat) (data : Byte) :
    hostMemwrBody space addr data s = raise .badAddr s := by
  have hno : ¬ (sp.hostWritable = true ∧ addr.toNat < sp.size s.par) := fun ⟨hw, ha⟩ =>
    haddr.elim (fun hs => absurd ((hostWritable_iff h).mp hw) (BitVec.not_le.mpr hs)) (Nat.not_le.mpr ha)
  simp [hostMemwrBody, h, hno]

theorem hostMemrdBody_legal {space : BitVec 3} {sp : Space} (h : spaceOf space = some sp) {addr : Half}
    (haddr : addr.toNat < sp.size s.par) :
    hostMemrdBody space addr s = said [indWord (lineId s) 0xF (.memVal (rd sp addr.toNat s))] s := by
  rw [hostMemrdBody, h]
  exact if_pos haddr

theorem hostMemrdBody_illegal {space : BitVec 3} {sp : Space} (h : spaceOf space = some sp) {addr : Half}
    (haddr : sp.size s.par ≤ addr.toNat) : hostMemrdBody space addr s = raise .badAddr s := by
  rw [hostMemrdBody, h]
  exact if_neg (Nat.not_lt.mpr haddr)

/-- A byte that was written is read, and every other byte reads as before. -/
theorem wr_byte (sp : Space) (a : Byte) (data : Byte) (s : State) :
    rd sp a.toNat (wr sp a.toNat [data] s) = data ∧ SameBytesBut sp a.toNat (a.toNat + 1) s (wr sp a.toNat [data] s) := by
  have ha := a.isLt
  constructor
  · rw [rd_wr _ _ _ _ _ _ (by simp; omega) (by omega), dif_pos (by simp)]
    simp
  · intro sp' a' ha' hne
    rw [rd_wr _ _ _ _ _ _ (by simp; omega) ha', dif_neg (by simpa using hne)]

/-! ### `CFGDONE` (R381) -/

/-- The settings `CFGDONE` sends to Real's resource, `H0`. -/
def configSettings (s : State) : List LrCmd :=
  [.setLaw (cfgLaw s.cfg), .setGain (cfgRxGain s.cfg) (cfgTxGain s.cfg) (cfgDrc s.cfg), .setEc (cfgEcTaps s.cfg) false]

/-- `CFGDONE` after `OPEN` was accepted. -/
def configured (cmds : List LrCmd) (s : State) : State :=
  cmds.foldl (fun s c => lrZero c s) (s.updLine fun l => { l with configured := true })

theorem hostCfgdoneBody_unlocked (h : s.line.configured = false) :
    hostCfgdoneBody s =
      lrCase (lineId s) (handleField 0) .openLine (configured (configSettings s)) (raise .lrOpen) s := by
  rw [hostCfgdoneBody, h]
  rfl

theorem lrZeros_says (cmds : List LrCmd) (s : State) : Says cmds.length s (cmds.foldl (fun s c => lrZero c s) s) := by
  induction cmds generalizing s with
  | nil => exact .refl s
  | cons c cmds ih => exact ((lrTry_says _ _ c s).trans (ih _)).mono (by simp; omega)

theorem lrZeros_commanded (cmds : List LrCmd) (s : State) :
    Commanded (cmds.map (lrWord (lineId s) 0)) s (cmds.foldl (fun s c => lrZero c s) s) := by
  induction cmds generalizing s with
  | nil => exact .refl s
  | cons c cmds ih =>
    have hc : Commanded [lrWord (lineId s) 0 c] s (lrZero c s) := lrTry_commanded _ _ c s
    have hline : lineId (lrZero c s) = lineId s := (lrTry_talk _ _ c s).lineId
    have hrest := ih (lrZero c s)
    rw [hline] at hrest
    exact hc.trans hrest

theorem exec_hostCfgdone (s : State) : exec .hostCfgdone s = .next (hostCfgdoneBody s) := rfl

/-! ### Reset (R450, R451) -/

theorem resetOf_bankInv (p : Config.Params) : BankInv (State.resetOf p) where
  real_alloc := rfl
  distinct x y hne hx hy := by
    have hreal (z : Leg) (hz : ((State.resetOf p).bank z).alloc = true) : z = .r := by
      cases z <;> first | rfl | exact absurd hz Bool.false_ne_true
    exact absurd ((hreal x hx).trans (hreal y hy).symm) hne
  owned_alloc x hx := by cases x <;> exact absurd hx Bool.false_ne_true
  in3way_alloc x hx := by cases x <;> exact absurd hx Bool.false_ne_true
  curleg := .inl rfl
  free x hx := by cases x <;> first | rfl | exact absurd hx.symm Bool.false_ne_true

theorem resetOf_spillInv {p : Config.Params} (hp : p.ok) : SpillInv (State.resetOf p) where
  par := hp
  absent _ := ⟨rfl, rfl, rfl⟩
  unread h := absurd rfl h
  fits := Nat.zero_le _
  suspended := rfl
  saved h := absurd h Bool.false_ne_true
  companded h := absurd h Bool.false_ne_true

theorem resetOf_quietInv (p : Config.Params) : QuietInv (State.resetOf p) :=
  ⟨fun _ => ⟨fun x => by cases x <;> rfl, rfl, rfl, rfl, rfl, rfl, rfl, rfl, rfl, rfl, rfl⟩⟩

theorem resetOf_toneInv (p : Config.Params) : ToneInv (State.resetOf p) := fun h => absurd rfl h

theorem resetOf_mwiInv (p : Config.Params) : MwiInv (State.resetOf p) :=
  ⟨fun h => absurd h Bool.false_ne_true, fun h => absurd h (by simp [State.resetOf, SpillRegs.reset])⟩

theorem resetOf_callInv (p : Config.Params) : CallInv (State.resetOf p) :=
  ⟨fun h => absurd h.1 Bool.false_ne_true, fun h => absurd h (by simp [State.resetOf, LineRegs.resetOf])⟩

theorem rd_resetOf (p : Config.Params) (sp : Space) (a : Nat) : rd sp a (State.resetOf p) = 0 := rfl

/-! ### Entries (R130, R386, R430) -/

/-- An operation that is refused before `CFGDONE`: a line event or a run-time host command. -/
theorem exec_of_notConfigured (hc : s.line.configured = false) (htime : isTimeWord i = false) (hsetup : isSetupWord i = false) :
    exec i s = .next (raise .notConfigured s) := by
  have hline (a b body) : lineEntry a b body s = raise .notConfigured s := by simp [lineEntry, hc]
  have hhost (body) : hostEntry body s = raise .notConfigured s := by simp [hostEntry, hc]
  have hnone : noneEvent s = raise .notConfigured s := by simp [noneEvent, hc]
  cases i
  case timeTick | timeLrfatal => exact absurd htime.symm Bool.false_ne_true
  case hostCfgwr | hostCfgdone | hostReset | hostMemwr | hostRdreg | hostMemrd => exact absurd hsetup.symm Bool.false_ne_true
  case hwNone | fakeNone => exact congrArg _ hnone
  case hostAlloc | hostRelease | hostSwap | hostReconcile | hostSlaveadd | hostSlavedel | hostMasterset | hostMasterclr
      | hostInconf | hostCall | hostUp | hostHangup | hostCwoffer | hostPoll | hostSetlinear | hostMwinotify | hostIndicate =>
    exact congrArg Host.Outcome.next (hhost _)
  all_goals exact congrArg Host.Outcome.next (hline _ _ _)

/-- The line events that the alarm masks are those and `ONHOOK`; in Releasing `ONHOOK` passes (R130). -/
theorem exec_maskable (h : isMaskableEvent i = true) : ∃ body, exec i s = .next (lineEntry false false body s) := by
  cases i
  all_goals first | exact absurd h Bool.false_ne_true | exact ⟨_, rfl⟩

theorem exec_onhook (h : i = .hwOnhook ∨ i = .fakeOnhook) (s : State) :
    exec i s = .next (lineEntry false true onhookBody s) := by
  obtain rfl | rfl := h <;> rfl

theorem isOnhook_iff : isOnhook i = true ↔ i = .hwOnhook ∨ i = .fakeOnhook := by cases i <;> simp [isOnhook]

theorem lineEntry_masked {b : Bool} (hc : s.line.configured = true) (ha : s.line.inalarm = true) (body : State → State) :
    lineEntry false b body s = raise .unexpected s := by simp [lineEntry, hc, ha]

theorem lineEntry_releasing {a : Bool} (hc : s.line.configured = true) (ha : s.line.inalarm = false) (hst : s.line.st = .releasing)
    (body : State → State) : lineEntry a false body s = raise .unexpected s := by simp [lineEntry, hc, ha, hst]

/-- Before `CFGDONE` a `TIME` word does nothing (R430). -/
theorem exec_timeWord (hc : s.line.configured = false) (h : isTimeWord i = true) : exec i s = .next s := by
  cases i
  case timeTick rxvalid txready => exact congrArg _ (tickBody_unconfigured hc rxvalid txready)
  case timeLrfatal =>
    have hbody : lrfatalBody s = s := by simp [lrfatalBody, hc]
    exact congrArg _ hbody
  all_goals exact absurd h Bool.false_ne_true

end Sys2Proof.Machine

namespace Sys2Proof

open Sys2Proof.Machine

/-- Settles O38: a legal access is one `wr` or one `MEMVAL`; every other one is refused. -/
theorem bufferWords : Obligations.BufferWords := by
  refine ⟨fun p => ⟨rfl, rfl, rfl, rfl, rfl, rfl, rfl⟩, ⟨rfl, rfl, rfl, rfl⟩, fun s space =>
    ⟨fun sp hsp => ⟨?write, ?nowrite, ?read, ?noread⟩, ?seven⟩⟩
  case write =>
    intro addr data hspace haddr
    have haddr16 : (addr.setWidth 16).toNat = addr.toNat := BitVec.toNat_setWidth_of_le (by decide)
    have hread := hostMemrdBody_legal (s := wr sp addr.toNat [data] s) hsp (addr := addr.setWidth 16) (haddr16 ▸ haddr)
    obtain ⟨hbyte, hothers⟩ := wr_byte sp addr data s
    rw [haddr16, hbyte] at hread
    exact ⟨_, congrArg Host.Outcome.next (hostMemwrBody_legal hsp hspace haddr data), hbyte, hothers, rfl,
      congrArg Host.Outcome.next hread⟩
  case nowrite => exact fun addr data haddr => congrArg _ (hostMemwrBody_illegal hsp haddr data)
  case read => exact fun addr haddr => congrArg _ (hostMemrdBody_legal hsp haddr)
  case noread => exact fun addr haddr => congrArg _ (hostMemrdBody_illegal hsp haddr)
  case seven => rintro rfl; exact ⟨fun _ _ => rfl, fun _ => rfl⟩

/-- Settles O36: after `OPEN` the settings are sent one after the other, whatever their answers. -/
theorem cfgdoneWord : Obligations.CfgdoneWord := by
  intro s
  simp only [exec_hostCfgdone]
  refine ⟨fun hc hacc => ?accepted, fun hc href => ?refused, fun hc => ?locked⟩
  case accepted =>
    let u := (spoke (lrWord (lineId s) 0 .openLine) s).updLine fun l => { l with configured := true }
    have heq : hostCfgdoneBody s = (configSettings s).foldl (fun s c => lrZero c s) u :=
      (hostCfgdoneBody_unlocked hc).trans (lrCase_of_acceptingNext hacc _ _ _ _ _)
    have hsays : Says 3 u (hostCfgdoneBody s) := heq ▸ lrZeros_says (configSettings s) u
    have hcmd : Commanded ((configSettings s).map (lrWord (lineId s) 0)) u (hostCfgdoneBody s) :=
      heq ▸ lrZeros_commanded (configSettings s) u
    have hopen : Commanded [lrWord (lineId s) 0 .openLine] s u := ⟨[_], rfl, by simp⟩
    refine ⟨_, rfl, hsays.line, hsays.banks, hsays.conf, hsays.tx,
      ⟨hsays.par, hsays.rx, hsays.mwi, hsays.cfg, .of_mem hsays.mem, hsays.events, hsays.frames⟩, (hopen.trans hcmd).newWords,
      fun ha => ?_⟩
    exact (hsays.smooth 0 ((ha.accepts.mono (show 4 ≤ 64 by decide)).spoke _)).1
  case refused => rw [hostCfgdoneBody_unlocked hc, lrCase_of_refusing href]; rfl
  case locked => rw [hostCfgdoneBody, hc]; rfl

/-- Settles O37: the reset state has its values by definition; the configuration registers are a table. -/
theorem resetWord : Obligations.ResetWord := by
  refine ⟨fun _ => rfl, fun p => ⟨rfl, rfl, cfgRead_resetOf p, rfl, rfl, rfl, rfl, rfl, rd_resetOf p⟩, rfl, rfl, fun n => ?_⟩
  refine (cfgRead_resetOf {} n).trans ?_
  by_cases h6 : n = 0x06
  · subst h6
    rfl
  · simp only [h6, if_false]
    rfl

/-- Settles O6: nothing is in progress after reset. -/
theorem resetIsGood : Obligations.ResetIsGood := by
  have hp : Config.Params.ok {} := by decide
  have hmem : MemInv State.reset :=
    ⟨hp, ⟨List.Pairwise.nil, fun c hc => absurd hc List.not_mem_nil⟩, fun c hc => absurd hc List.not_mem_nil⟩
  have hcid : CidInv State.reset := ⟨hp, Nat.zero_le _, Nat.zero_le _, fun h => absurd h (by decide), by decide⟩
  exact ⟨resetOf_bankInv _, hmem, resetOf_spillInv hp, resetOf_quietInv _, resetOf_toneInv _, resetOf_mwiInv _, hcid,
    resetOf_cfgInv _, resetOf_callInv _, resetOf_confInv hp⟩

/-- Settles O20: the entries refuse what R130, R386 and R430 say. -/
theorem admission : Obligations.Admission := by
  refine fun i s => ⟨exec_timeWord, exec_of_notConfigured, fun hc ha hi => ?alarm, fun hc ha hst hi => ?releasing, fun hc hi => ?none⟩
  case alarm =>
    obtain hi | hi := hi
    · obtain ⟨body, hbody⟩ := exec_maskable (s := s) hi
      rw [hbody, lineEntry_masked hc ha]
    · rw [exec_onhook (isOnhook_iff.mp hi), lineEntry_masked hc ha]
  case releasing =>
    obtain ⟨body, hbody⟩ := exec_maskable (s := s) hi
    rw [hbody, lineEntry_releasing hc ha hst]
  case none => obtain rfl | rfl := hi <;> exact congrArg _ (noneEvent_configured hc)

end Sys2Proof

end

/-! PROOFS. Hook events of the station and the alarm (spec/40_hook_events.md): `ONHOOK` (O22), `OFFHOOK` (O24, O25),
`POLARITY` (O33), `ALARM` and `NOALARM` (O34). -/

section

namespace Sys2Proof.Machine

variable {s t u : State} {i : Instr} {j k : Nat}

/-! ### Entries -/

theorem lineEntry_open {a : Bool} (hc : s.line.configured = true) (ha : s.line.inalarm = false ∨ a = true) (body : State → State) :
    lineEntry a true body s = body s := by
  obtain ha | rfl := ha
  · simp [lineEntry, hc, ha]
  · simp [lineEntry, hc]

theorem exec_offhook (h : i = .hwOffhook ∨ i = .fakeOffhook) (hs : LineReady s) : exec i s = .next (offhookBody s) := by
  obtain rfl | rfl := h <;> exact congrArg Host.Outcome.next (lineEntry_ready hs)

theorem exec_ringoffhook (h : i = .hwRingoffhook ∨ i = .fakeRingoffhook) (hs : LineReady s) :
    exec i s = .next (ringoffhookBody s) := by
  obtain rfl | rfl := h <;> exact congrArg Host.Outcome.next (lineEntry_ready hs)

theorem exec_ringbegin (h : i = .hwRingbegin ∨ i = .fakeRingbegin) (hs : LineReady s) : exec i s = .next (ringbeginBody s) := by
  obtain rfl | rfl := h <;> exact congrArg Host.Outcome.next (lineEntry_ready hs)

theorem exec_ringoff (h : i = .hwRingoff ∨ i = .fakeRingoff) (hs : LineReady s) : exec i s = .next (ringoffBody s) := by
  obtain rfl | rfl := h <;> exact congrArg Host.Outcome.next (lineEntry_ready hs)

theorem exec_polarity (h : i = .hwPolarity ∨ i = .fakePolarity) (hs : LineReady s) : exec i s = .next (polarityBody s) := by
  obtain rfl | rfl := h <;> exact congrArg Host.Outcome.next (lineEntry_ready hs)

theorem exec_alarm (h : i = .hwAlarm ∨ i = .fakeAlarm) (hs : s.line.configured = true) : exec i s = .next (alarmBody s) := by
  obtain rfl | rfl := h <;> exact congrArg Host.Outcome.next (lineEntry_open hs (.inr rfl) _)

theorem exec_noalarm (h : i = .hwNoalarm ∨ i = .fakeNoalarm) (hs : s.line.configured = true) :
    exec i s = .next (setAlarm false s) := by
  obtain rfl | rfl := h <;> exact congrArg Host.Outcome.next (lineEntry_open hs (.inr rfl) _)

/-- An MWI engine at rest has nothing to abort (R350). -/
theorem mwiAbortIfActive_inactive (h : s.mwi.st.isActive = false) : mwiAbortIfActive s = s := by
  have hst : s.mwi.st = .null ∨ s.mwi.st = .done := by
    revert h
    cases s.mwi.st <;> decide
  obtain hst | hst := hst <;> rw [mwiAbortIfActive, hst]

theorem mwiQuiet_iff : mwiQuiet s = true ↔ s.mwi.st.isActive = false := by
  rw [mwiQuiet]
  cases s.mwi.st <;> decide

theorem isCall_iff {x : CallState} : x.isCall = true ↔ x = .active ∨ x = .onHold ∨ x = .threeWayDialing := by
  cases x <;> decide

/-! ### Hanging up after a change of `HOOK` or `POL`, which `LINEDOWN` clears -/

/-- A line is hung up from any value of the registers `LINEDOWN` clears in any case. -/
theorem HungUp.of_cleared {cause : Cause} {skip : Option Leg} {hook pol : Bool}
    (h : HungUp cause skip (s.updLine fun l => { l with hook := hook, pol := pol }) t) : HungUp cause skip s t := by
  exact { h with inputs := ⟨h.inputs.events, h.inputs.frames⟩ }

/-! ### `ONHOOK` (R140) -/

theorem onhookBody_call (hst : s.line.st.isCall = true) (hcw : s.banks.cw.owned = false) :
    onhookBody s = lineDown .onhook none (setHookReg false s) := by
  have hbody : onhookInCall (setHookReg false s) = lineDown .onhook none (setHookReg false s) := by
    rw [onhookInCall, if_neg (by simp [setHookReg, hcw])]
  have hcase (l : CallState) (hl : s.line.st = l) : (setHookReg false s).line.st = l := hl
  obtain hst | hst | hst := isCall_iff.mp hst <;>
    · rw [onhookBody, onhookCase, hcase _ hst]
      exact hbody

theorem onhookBody_setup (hst : s.line.st = .offered)
    (hdir : (s.line.calldir = .inbound ∧ s.line.hook = true) ∨ s.line.calldir = .outDial) :
    onhookBody s = lineDown .onhook none (setHookReg false s) := by
  have hcond : ((s.line.calldir == .inbound && s.line.hook) || s.line.calldir == .outDial) = true := by
    obtain ⟨hdir, hhook⟩ | hdir := hdir <;> simp [*]
  rw [onhookBody, onhookCase, show (setHookReg false s).line.st = .offered from hst]
  exact if_pos hcond

theorem onhookBody_quiet (hst : s.line.st = .idle ∨ s.line.st = .releasing) : onhookBody s = setHookReg false s := by
  obtain hst | hst := hst <;> rw [onhookBody, onhookCase, show (setHookReg false s).line.st = _ from hst]

theorem onhookBody_ringing (hst : s.line.st = .offered)
    (hdir : s.line.calldir = .outRing ∨ (s.line.calldir = .inbound ∧ s.line.hook = false)) :
    onhookBody s = raise .unexpected (setHookReg false s) := by
  have hcond : ¬ ((s.line.calldir == .inbound && s.line.hook) || s.line.calldir == .outDial) = true := by
    obtain hdir | ⟨hdir, hhook⟩ := hdir <;> simp [*]
  rw [onhookBody, onhookCase, show (setHookReg false s).line.st = .offered from hst]
  exact if_neg hcond

/-! ### `ESTABLISH` (R137) -/

/-- The registers after `ESTABLISH` (R137). -/
def established (s : State) : State :=
  s.updLine fun l =>
    { l.goneTo .active with answered := true, answerT := l.now, ringt := 0, ringing := false, curleg := some .r }

/-- An operation and `ESTABLISH` after it. -/
theorem Acts.thenEstablish {p f : State → State} (h : Acts k p f) (s : State) :
    Passes (k + 1 + 7) (established (p s)) (establish (f s)) :=
  ((h.then (goTo_acts .active)).thenSilent (updLine_silent fun l =>
    { l with answered := true, answerT := l.now, ringt := 0, ringing := false, curleg := some .r })).thenPass s

theorem establish_passes (s : State) : Passes 8 (established s) (establish s) :=
  (acts_of_says (k := 0) Says.refl).thenEstablish s

/-- The line registers after an Offered call was established. -/
theorem established_line_of_offered (h : s.line.st = .offered) :
    (established s).line =
      { s.line with
        st := .active, tone := .none, answered := true, answerT := s.line.now, ringt := 0, ringing := false,
        curleg := some .r } := by
  simp [established, LineRegs.goneTo, h]

/-- A rewriting of a bank that neither reads the shadow nor changes allocation. -/
theorem Bank.Alike.map {f : Bank → Bank} (hcur : ∀ b d, f { b with cur := d } = { f b with cur := d })
    (halloc : ∀ b, (f b).alloc = b.alloc) {a b : Bank} (h : a.Alike b) : (f a).Alike (f b) := by
  obtain ⟨d, rfl, hd⟩ := Bank.alike_iff.mp h
  refine ⟨?_, fun ha => ?_⟩
  · rw [hcur]; rfl
  · rw [hd (halloc a ▸ ha)]

theorem Passes.pendReal (h : Passes k s t) (p : PendBit) : Passes k (pendReal p s) (pendReal p t) :=
  h.updBank fun _ _ => Bank.Alike.map (f := Bank.setPend p) (fun _ _ => rfl) fun _ => rfl

/-! ### `OFFHOOK` (R143, R144) -/

/-- The registers after the station has seized the line (R143). -/
def seized (s : State) : State :=
  { s with
    line := { s.line with
      st := .offered, hook := true, calldir := .inbound, ringing := false, ringt := 0, prering := false, curleg := some .r,
      tone := .dialtone }
    banks := { s.banks with real := { s.banks.real with owned := true, owner := 0 } }
    rx := CidRxRegs.reset }

theorem seize_acts : Acts 2 seized seize :=
  (((((((((updLine_silent fun l => { l with hook := true }).acts.thenSilent (updRx_silent fun _ => CidRxRegs.reset)).thenSilent
    (updLine_silent fun l => { l with prering := false })).then (goTo_acts .offered)).thenSilent
    (updLine_silent fun l => { l with calldir := .inbound, ringing := false, ringt := 0 })).thenSilent
    (updBank_silent .r (Bank.own 0))).thenSilent (updLine_silent fun l => { l with curleg := some .r })).then
    (startTone_acts .dialtone)).then (indicateLeg_acts .r .spawnSetup)).of_eq fun _ => rfl

/-- A change of `ST` where no tone plays. -/
theorem goTo_of_noTone (x : CallState) (h : s.line.tone = .none) : goTo x s = s.updLine fun l => { l with st := x } := by
  have hstop : stopTone s = s := onlyIf_false (by simp [h])
  rw [goTo, onlyIf]
  split
  · exact congrArg _ hstop
  · rfl

/-- The seizing station's words, where the tone is accepted (R143). -/
theorem seize_words (hs : Accepting s) (htone : s.line.tone = .none) :
    newWords s (seize s) =
      [lrWord (lineId s) (handleField s.banks.real.res) (.tonePlay .dialtone), indWord (lineId s) 0 .spawnSetup] := by
  let v := { s with
    line := { s.line with
      st := .offered, hook := true, calldir := .inbound, ringing := false, ringt := 0, prering := false, curleg := some .r }
    banks := { s.banks with real := { s.banks.real with owned := true, owner := 0 } }
    rx := CidRxRegs.reset }
  have hgo := goTo_of_noTone .offered (s := clearPrering (cidrxReset (setHookReg true s))) htone
  have hseize : seize s = indicateLeg .r .spawnSetup (startTone .dialtone v) := by
    rw [seize, hgo]
    rfl
  have hv : AcceptingNext v := (hs.accepts.mono (show 1 ≤ 64 by decide)).acceptingNext
  have hwords : (seize s).env.out = s.env.out ++
      [lrWord (lineId s) (handleField s.banks.real.res) (.tonePlay .dialtone), indWord (lineId s) 0 .spawnSetup] := by
    rw [hseize, startTone, lrReal, lrLeg, lrTry_of_acceptingNext hv]
    exact List.append_assoc _ _ _
  rw [newWords, hwords, List.drop_left]

theorem takesBurst_of_isCall (h : s.line.st.isCall = true) : takesBurst s = false := by
  obtain h | h | h := isCall_iff.mp h <;> simp [takesBurst, h]

theorem offhookBody_of_inactive (hm : s.mwi.st.isActive = false) : offhookBody s = offhookCase s := by
  rw [offhookBody, mwiAbortIfActive_inactive hm]

theorem offhookCase_offered (h : s.line.st = .offered) : offhookCase s = answerOffered s := by rw [offhookCase, h]

theorem offhookCase_idle (h : s.line.st = .idle) : offhookCase s = seize s := by rw [offhookCase, h]

theorem offhookCase_call (h : s.line.st.isCall = true) : offhookCase s = raise .unexpected s := by
  obtain h | h | h := isCall_iff.mp h <;> rw [offhookCase, h]

/-- A station that takes no burst is off-hook when it rings off-hook (R144). -/
theorem ringoffhookBody_noBurst (hm : s.mwi.st.isActive = false) (h : takesBurst s = false) :
    ringoffhookBody s = offhookCase s := by
  rw [ringoffhookBody, mwiAbortIfActive_inactive hm]
  exact if_neg (by simp [h])

theorem answerOffered_outRing (h : s.line.calldir = .outRing) :
    answerOffered s = pendReal .needAnswer (establish (spillDiscard (setHookReg true s))) := by
  rw [answerOffered, if_pos (by simp [h])]

theorem answerOffered_outDial (h : s.line.calldir = .outDial) (hf : familyOf s.cfg = .trunk) :
    answerOffered s = pendReal .needAnswer (establish (setHookReg true s)) := by
  rw [answerOffered, if_neg (by simp [h]), if_pos (by simp [h, hf])]

theorem answerOffered_refused (h : s.line.calldir ≠ .outRing) (hf : ¬ (s.line.calldir = .outDial ∧ familyOf s.cfg = .trunk)) :
    answerOffered s = raise .unexpected s := by
  rw [answerOffered, if_neg (by simpa using h), if_neg (by simpa using hf)]

/-! ### `POLARITY` (R155) -/

theorem polarityBody_eq (s : State) : polarityBody s = polarityCase (s.updLine fun l => { l with pol := true }) := rfl

theorem polarityCase_idle (h : s.line.st = .idle) : polarityCase s = polarityIdle s := by rw [polarityCase, h]

theorem polarityCase_offered (h : s.line.st = .offered) : polarityCase s = polarityOffered s := by rw [polarityCase, h]

theorem polarityCase_call (h : s.line.st.isCall = true) : polarityCase s = polarityInCall s := by
  obtain h | h | h := isCall_iff.mp h <;> rw [polarityCase, h]

end Sys2Proof.Machine

namespace Sys2Proof

open Sys2Proof.Machine

/-- Settles O22: the branches of R140. -/
theorem onhookWord : Obligations.OnhookWord := by
  intro s i hi hc ha
  have hexec : exec i s = .next (onhookBody s) := (exec_onhook hi s).trans (congrArg _ (lineEntry_open hc (.inl ha) _))
  rw [hexec]
  have hdown : HungUp .onhook none s (lineDown .onhook none (setHookReg false s)) ∧
      (Accepting s → NoError s (lineDown .onhook none (setHookReg false s))) :=
    ⟨(lineDown_hungUp .onhook none (setHookReg false s)).of_cleared (pol := s.line.pol),
      fun hs => (lineDown_passes .onhook none (setHookReg false s)).noError rfl rfl (by decide) hs⟩
  refine ⟨?down, fun hst => congrArg _ (onhookBody_quiet hst), fun hst hdir => congrArg _ (onhookBody_ringing hst hdir)⟩
  case down =>
    rintro (⟨hst, hcw⟩ | ⟨hst, hdir⟩)
    · exact ⟨_, congrArg _ (onhookBody_call hst hcw), hdown⟩
    · exact ⟨_, congrArg _ (onhookBody_setup hst hdir), hdown⟩

/-- Settles O24: the silent function of `seize`, and its two words. -/
theorem offhookSeizes : Obligations.OffhookSeizes := by
  intro s i hi hs hst hm
  have h := seize_acts.spoken s
  refine ⟨seize s, ?_, h.line, h.banks, h.rx, h.conf, h.tx, h.mwi, h.cfg, .of_mem h.mem, ⟨h.events, h.frames⟩, fun hacc htone => ?_⟩
  · rw [exec_offhook hi hs, offhookBody_of_inactive hm, offhookCase_idle hst]
  · exact ⟨h.noError rfl rfl (by decide) hacc, seize_words hacc htone⟩

/-- Settles O25: the branches of R143; a station that takes no burst rings off-hook as it goes off-hook. -/
theorem offhookAnswers : Obligations.OffhookAnswers := by
  intro s i hi hs hm
  have hcase (hburst : isOffhook i = true ∨ takesBurst s = false) : exec i s = .next (offhookCase s) := by
    obtain hoff | hring : (i = .hwOffhook ∨ i = .fakeOffhook) ∨ (i = .hwRingoffhook ∨ i = .fakeRingoffhook) :=
      or_assoc.mpr hi
    · rw [exec_offhook hoff hs, offhookBody_of_inactive hm]
    · have hno : isOffhook i = false := by obtain rfl | rfl := hring <;> rfl
      rw [exec_ringoffhook hring hs, ringoffhookBody_noBurst hm (hburst.resolve_left (by simp [hno]))]
  refine ⟨fun hcall => ?call, fun hst hdir => ?refused, fun hst hdir hoff => ?rung, fun hst hdir => ?outRing,
    fun hst hdir hf => ?outDial⟩
  case call => rw [hcase (.inr (takesBurst_of_isCall hcall)), offhookCase_call hcall]
  case refused =>
    obtain hdir | ⟨hdir, hhook⟩ | ⟨hdir, hf⟩ := hdir <;>
      rw [hcase (.inr (by simp [takesBurst, *])), offhookCase_offered hst, answerOffered_refused (by simp [hdir]) (by simp [*])]
  case rung => rw [hcase (.inl hoff), offhookCase_offered hst, answerOffered_refused (by simp [hdir]) (by simp [hdir])]
  case outRing =>
    have hook := (updLine_silent fun l => { l with hook := true }).acts
    have h := ((hook.then spillDiscard_acts).thenEstablish s).pendReal .needAnswer
    exact ⟨_, by rw [hcase (.inr (by simp [takesBurst, *])), offhookCase_offered hst, answerOffered_outRing hdir]; rfl,
      h.line.trans (established_line_of_offered hst), (h.banks .r).logical, (h.banks .cw).logical, (h.banks .tw).logical,
      ⟨h.tx, h.conf⟩, h.callFrame rfl rfl rfl rfl rfl rfl rfl, h.noError rfl rfl (by decide)⟩
  case outDial =>
    have hook := (updLine_silent fun l => { l with hook := true }).acts
    have h := (hook.thenEstablish s).pendReal .needAnswer
    exact ⟨_, by rw [hcase (.inr (by simp [takesBurst, *])), offhookCase_offered hst, answerOffered_outDial hdir hf]; rfl,
      h.line.trans (established_line_of_offered hst), (h.banks .r).logical, (h.banks .cw).logical, (h.banks .tw).logical,
      h.tx, h.conf, h.callFrame rfl rfl rfl rfl rfl rfl rfl, h.noError rfl rfl (by decide)⟩

/-- Settles O33: the branches of R155. -/
theorem polarityWord : Obligations.PolarityWord := by
  intro s i hi hs
  rw [exec_polarity hi hs, polarityBody_eq]
  have hpol := (updLine_silent fun l => { l with pol := true }).acts
  generalize hv : s.updLine (fun l => { l with pol := true }) = v
  have hvst : v.line.st = s.line.st := hv ▸ rfl
  have hvdir : v.line.calldir = s.line.calldir := hv ▸ rfl
  have hvcfg : v.cfg = s.cfg := hv ▸ rfl
  refine ⟨fun hst hrx hstart hm => ?idle, fun hst hdir hans => ?answer, fun hcall hfeat hansd hdelay => ?hangup,
    fun hidle hoff hin => congrArg _ ?rest⟩
  case idle =>
    have hquiet : mwiQuiet v = true := mwiQuiet_iff.mpr (hv ▸ hm)
    rw [polarityCase_idle (hvst.trans hst), polarityIdle, onlyIf_true (by simp [hvcfg, hrx, hstart, hquiet]), ← hv]
    rfl
  case answer =>
    have heq : polarityCase v = pendReal .needAnswer (establish v) := by
      rw [polarityCase_offered (hvst.trans hst), polarityOffered, onlyIf_true (by obtain h | h := hdir <;> simp [hvcfg, hvdir, hans, h])]
    have h := (hpol.thenEstablish s).pendReal .needAnswer
    rw [← hv] at heq ⊢
    exact ⟨_, congrArg _ heq, h.line.trans (established_line_of_offered hst), (h.banks .r).logical, (h.banks .cw).logical,
      (h.banks .tw).logical, h.tx, h.conf, h.callFrame rfl rfl rfl rfl rfl rfl rfl, h.noError rfl rfl (by decide)⟩
  case hangup =>
    have heq : polarityCase v = lineDown .polarity none v := by
      rw [polarityCase_call (hvst ▸ hcall), polarityInCall]
      refine onlyIf_true ?_
      rw [← hv]
      simp only [State.updLine_line, State.updLine_cfg, hfeat, hansd, Bool.true_and, decide_eq_true_eq]
      exact hdelay
    rw [← hv] at heq ⊢
    have hdown := lineDown_hungUp .polarity none (s.updLine fun l => { l with pol := true })
    exact ⟨_, congrArg _ heq, hdown.of_cleared (hook := s.line.hook) (pol := true),
      fun hacc => (lineDown_passes .polarity none _).noError rfl rfl (by decide) hacc⟩
  case rest =>
    have hnow : v.line.now = s.line.now ∧ v.line.answerT = s.line.answerT ∧ v.line.answered = s.line.answered ∧ v.mwi = s.mwi :=
      hv ▸ ⟨rfl, rfl, rfl, rfl⟩
    cases hst : v.line.st with
    | idle =>
      rw [polarityCase_idle hst, polarityIdle]
      refine onlyIf_false (Bool.eq_false_iff.mpr fun h => hidle ?_)
      simp only [Bool.and_eq_true, beq_iff_eq, hvcfg] at h
      exact ⟨hvst ▸ hst, h.1.1, h.1.2, hnow.2.2.2 ▸ mwiQuiet_iff.mp h.2⟩
    | offered =>
      rw [polarityCase_offered hst, polarityOffered]
      refine onlyIf_false (Bool.eq_false_iff.mpr fun h => hoff ?_)
      simp only [Bool.and_eq_true, Bool.or_eq_true, beq_iff_eq, hvcfg, hvdir] at h
      exact ⟨hvst ▸ hst, h.1, h.2⟩
    | releasing => rw [polarityCase, hst]
    | active | onHold | threeWayDialing =>
      have hcall : v.line.st.isCall = true := by rw [hst]; rfl
      rw [polarityCase_call hcall, polarityInCall]
      refine onlyIf_false (Bool.eq_false_iff.mpr fun h => hin ?_)
      obtain ⟨hn, ha, hd, -⟩ := hnow
      simp only [Bool.and_eq_true, decide_eq_true_eq, hvcfg, hn, ha, hd] at h
      exact ⟨hvst ▸ hcall, h.1.1, h.1.2, h.2⟩

/-- Settles O34: the branches of R158; `NOALARM` writes `INALARM` alone. -/
theorem alarmWords : Obligations.AlarmWords := by
  intro s i hc
  refine ⟨fun hi hm hidle hrel => ?call, fun hi hm hst => ?quiet, fun hi => exec_noalarm hi hc⟩
  case call =>
    have heq : alarmBody s = lineDown .alarm none (setAlarm true s) := by
      rw [alarmBody, mwiAbortIfActive_inactive (s := setAlarm true s) hm]
      exact if_pos (by simp [setAlarm, hidle, hrel])
    exact ⟨_, (exec_alarm hi hc).trans (congrArg _ heq), lineDown_hungUp _ _ _,
      fun hacc => (lineDown_passes .alarm none (setAlarm true s)).noError rfl rfl (by decide) hacc⟩
  case quiet =>
    have heq : alarmBody s =
        onlyIf (fun s => s.line.prering || s.rx.st != .off) (fun s => s |> cidrxReset |> clearPrering) (setAlarm true s) := by
      rw [alarmBody, mwiAbortIfActive_inactive (s := setAlarm true s) hm]
      exact if_neg (by obtain hst | hst := hst <;> simp [setAlarm, hst])
    rw [exec_alarm hi hc, heq]
    by_cases hrx : s.line.prering = true ∨ s.rx.st ≠ .off
    · rw [onlyIf_true (by simpa [setAlarm] using hrx), if_pos hrx]
      rfl
    · have hpre : s.line.prering = false := by simpa using fun h => hrx (.inl h)
      rw [onlyIf_false (by simpa [setAlarm] using hrx), if_neg hrx, ← hpre]
      rfl

end Sys2Proof

end

/-! PROOFS. The multiplexer: `RELEASE` (O41), `SWAP` (O42) and that it is its own inverse (O43). -/

section

namespace Sys2Proof.Machine

variable {s t u : State} {i : Instr} {j k : Nat}

/-! ### Releasing a leg (R193, R194) -/

/-- `RELEASE_LEG` up to `CLOSE`. -/
def releaseSettings (x : Leg) (s : State) : State :=
  s |> onlyIf (fun s => (s.bank x).cur != descNone) (lrLeg x (.setConf descNone))
    |> onlyIf (fun s => (s.bank x).linear) (lrLeg x (.setLinear false))

theorem releaseLeg_eq (x : Leg) (s : State) :
    releaseLeg x s = (lrLeg x .closeLine (releaseSettings x s)).updBank x fun _ => Bank.empty := rfl

theorem releaseSettings_talk (x : Leg) (s : State) : Talk s (releaseSettings x s) :=
  Talk.trans (onlyIf_cases (P := Talk s) (fun _ => lrLeg_talk x _ s) fun _ => .refl s)
    (onlyIf_cases (P := Talk _) (fun _ => lrLeg_talk x _ _) fun _ => .refl _)

/-- `RELEASE_LEG` closes the leg's resource. -/
theorem releaseLeg_told (x : Leg) (s : State) :
    Told (lrWord (lineId s) (handleField (s.bank x).res) .closeLine) s (releaseLeg x s) := by
  have htalk := releaseSettings_talk x s
  have hclose := lrLeg_told x .closeLine (releaseSettings x s)
  rw [htalk.lineId, legH, htalk.bank] at hclose
  exact hclose.after htalk.out

theorem hostReleaseBody_allocated {leg : BitVec 2} {x : Leg} (hleg : legOf leg = some x) (hx : x ≠ .r)
    (ha : (s.bank x).alloc = true) : hostReleaseBody leg s = reconcilePass (releaseLeg x s) := by
  simp [hostReleaseBody, withLeg_of_legOf hleg, hx, ha]

theorem hostReleaseBody_free {leg : BitVec 2} {x : Leg} (hleg : legOf leg = some x) (hx : x ≠ .r)
    (ha : (s.bank x).alloc = false) : hostReleaseBody leg s = raise .unexpected s := by
  simp [hostReleaseBody, withLeg_of_legOf hleg, hx, ha]

theorem exec_hostRelease_of_configured (h : s.line.configured = true) (leg : BitVec 2) :
    exec (.hostRelease leg) s = .next (hostReleaseBody leg s) := congrArg Host.Outcome.next (hostEntry_configured h)

/-! ### Swapping two legs (R196, R197) -/

/-- What `DO_SWAP` does before the exchange: with Real in it, the tone is stopped and the spill discarded. -/
def readied (a b : Leg) (s : State) : State := onlyIf (fun _ => a == .r || b == .r) (fun s => discarded (toneStopped s)) s

theorem doSwap_acts (a b : Leg) : Acts 2 (fun s => exchangeBanks a b (readied a b s)) (doSwap a b) :=
  (Acts.onlyIf (fun _ _ _ _ _ => rfl) (stopTone_acts.then spillDiscard_acts)).thenSilent (exchangeBanks_silent a b)

theorem readied_of_real {a b : Leg} (h : a = .r ∨ b = .r) (s : State) : readied a b s = discarded (toneStopped s) :=
  onlyIf_true (by simpa using h)

theorem readied_of_others {a b : Leg} (ha : a ≠ .r) (hb : b ≠ .r) (s : State) : readied a b s = s :=
  onlyIf_false (by simp [ha, hb])

theorem readied_bank (a b z : Leg) (s : State) : (readied a b s).bank z = bankBeforeSwap a b z s := by
  rw [bankBeforeSwap]
  by_cases h : a = .r ∨ b = .r
  · rw [readied_of_real h]
    cases z <;> simp [h, discarded, toneStopped, State.bank, Banks.get, linearAfterDiscard]
  · obtain ⟨ha, hb⟩ := not_or.mp h
    rw [readied_of_others ha hb, if_neg (fun hz => h hz.1)]

theorem exec_hostSwap_of_configured (h : s.line.configured = true) (a b : BitVec 2) :
    exec (.hostSwap a b) s = .next (hostSwapBody a b s) := congrArg Host.Outcome.next (hostEntry_configured h)

theorem hostSwapBody_of_legs {a b : BitVec 2} {x y : Leg} (ha : legOf a = some x) (hb : legOf b = some y) :
    hostSwapBody a b s =
      if x = y then s
      else if !(s.bank x).alloc || !(s.bank y).alloc then raise .unexpected s
      else reconcilePass (doSwap x y s) := by
  rw [hostSwapBody, withLeg_of_legOf ha, withLeg_of_legOf hb]

theorem hostSwapBody_of_none {a b : BitVec 2} (h : legOf a = none ∨ legOf b = none) : hostSwapBody a b s = raise .badArg s := by
  cases ha : legOf a with
  | none => rw [hostSwapBody, withLeg_of_legOf_none ha]
  | some x =>
    have hb := h.resolve_left (by simp [ha])
    rw [hostSwapBody, withLeg_of_legOf ha, withLeg_of_legOf_none hb]

theorem hostSwapBody_allocated {a b : BitVec 2} {x y : Leg} (ha : legOf a = some x) (hb : legOf b = some y) (hne : x ≠ y)
    (hx : (s.bank x).alloc = true) (hy : (s.bank y).alloc = true) : hostSwapBody a b s = reconcilePass (doSwap x y s) := by
  rw [hostSwapBody_of_legs ha hb, if_neg hne, if_neg (by simp [hx, hy])]

theorem hostSwapBody_free {a b : BitVec 2} {x y : Leg} (ha : legOf a = some x) (hb : legOf b = some y) (hne : x ≠ y)
    (h : (s.bank x).alloc = false ∨ (s.bank y).alloc = false) : hostSwapBody a b s = raise .unexpected s := by
  rw [hostSwapBody_of_legs ha hb, if_neg hne, if_pos (by obtain h | h := h <;> simp [h])]

/-- The exchange of two of three banks: everything but `PEND` (R29, R197). -/
def exchanged (x y : Leg) (f : Leg → Bank) (z : Leg) : Bank :=
  if z = x then { f y with pend := (f x).pend } else if z = y then { f x with pend := (f y).pend } else f z

theorem exchanged_twice {x y : Leg} (hne : x ≠ y) (f : Leg → Bank) : exchanged x y (exchanged x y f) = f := by
  funext z
  by_cases hx : z = x
  · subst hx
    simp [exchanged, Ne.symm hne]
  · by_cases hy : z = y
    · subst hy
      simp [exchanged, hx]
    · simp [exchanged, hx, hy]

theorem exchanged_logical {f g : Leg → Bank} (h : ∀ z, (f z).logical = (g z).logical) (x y z : Leg) :
    (exchanged x y f z).logical = (exchanged x y g z).logical := by
  have hwith {a b c d : Bank} (hab : a.logical = b.logical) (hcd : c.logical = d.logical) :
      { a with pend := c.pend }.logical = { b with pend := d.pend }.logical := by
    obtain ⟨-, -, -, -, -, -, hpend⟩ := Bank.logical_fields hcd
    have hset : { a.logical with pend := c.pend } = { b.logical with pend := d.pend } := by rw [hab, hpend]
    exact hset
  rw [exchanged, exchanged]
  split
  · exact hwith (h y) (h x)
  · split
    · exact hwith (h x) (h y)
    · exact h z

theorem swapped_bank {x y : Leg} (hne : x ≠ y) (z : Leg) (s : State) :
    (exchangeBanks x y (readied x y s)).bank z = exchanged x y (fun z => bankBeforeSwap x y z s) z := by
  rw [exchangeBanks_bank hne, exchanged]
  simp only [readied_bank]

theorem bankBeforeSwap_pend (x y z : Leg) (s : State) : (bankBeforeSwap x y z s).pend = (s.bank z).pend := by
  rw [bankBeforeSwap]
  split
  · next h => rw [h.2]; rfl
  · rfl

/-- Where no linear mode is to be given back, the swap finds the banks as they are. -/
theorem bankBeforeSwap_of_notSaved {x y : Leg} (h : x = .r ∨ y = .r → s.tx.linSaved = false) (z : Leg) :
    bankBeforeSwap x y z s = s.bank z := by
  rw [bankBeforeSwap]
  split
  · next hz =>
    obtain ⟨hreal, rfl⟩ := hz
    simp [linearAfterDiscard, h hreal]
  · rfl

theorem bankBeforeSwap_linear (x y z : Leg) (s : State) :
    { (bankBeforeSwap x y z s).logical with linear := (s.bank z).linear } = (s.bank z).logical := by
  rw [bankBeforeSwap]
  split
  · next h => rw [h.2]; rfl
  · rfl

/-- The banks after a swap, up to the shadows of the pass. -/
theorem swap_passes (x y : Leg) (s : State) : Passes 9 (exchangeBanks x y (readied x y s)) (reconcilePass (doSwap x y s)) :=
  (doSwap_acts x y).thenPass s

/-- A swap leaves no linear mode to be given back to Real, unless it is a swap of the other two. -/
theorem readied_linSaved {x y : Leg} (h : x = .r ∨ y = .r) (s : State) : (readied x y s).tx.linSaved = false := by
  rw [readied_of_real h]
  rfl

/-! ### Swapping twice (R198) -/

/-- Two legs that `SWAP` exchanges in this state. -/
structure Swaps (a b : BitVec 2) (x y : Leg) (s : State) : Prop where
  configured : s.line.configured = true
  left : legOf a = some x
  right : legOf b = some y
  ne : x ≠ y
  leftAlloc : (s.bank x).alloc = true
  rightAlloc : (s.bank y).alloc = true

theorem exec_hostSwap_of_swaps {a b : BitVec 2} {x y : Leg} (h : Swaps a b x y s) :
    exec (.hostSwap a b) s = .next (reconcilePass (doSwap x y s)) := by
  rw [exec_hostSwap_of_configured h.configured, hostSwapBody_allocated h.left h.right h.ne h.leftAlloc h.rightAlloc]

/-- A `SWAP` that exchanges nothing only talks. -/
theorem exec_hostSwap_talk {a b : BitVec 2} (h : ∀ x y, ¬ Swaps a b x y s) (ht : exec (.hostSwap a b) s = .next t) : Talk s t := by
  cases hc : s.line.configured with
  | false =>
    have hraise : exec (.hostSwap a b) s = .next (raise .notConfigured s) := exec_of_notConfigured hc rfl rfl
    exact Host.Outcome.next.inj (ht.symm.trans hraise) ▸ raise_talk _ s
  | true =>
    rw [exec_hostSwap_of_configured hc] at ht
    obtain rfl := Host.Outcome.next.inj ht
    cases ha : legOf a with
    | none => rw [hostSwapBody_of_none (.inl ha)]; exact raise_talk _ s
    | some x =>
      cases hb : legOf b with
      | none => rw [hostSwapBody_of_none (.inr hb)]; exact raise_talk _ s
      | some y =>
        rw [hostSwapBody_of_legs ha hb]
        split
        · exact .refl s
        · next hne =>
          split
          · exact raise_talk _ s
          · next hfree =>
            simp only [Bool.or_eq_true, Bool.not_eq_true', not_or, Bool.not_eq_false] at hfree
            exact absurd ⟨hc, ha, hb, hne, hfree.1, hfree.2⟩ (h x y)

/-- What a swap leaves of the banks, up to shadows, and of the saved linear mode. -/
theorem swap_banks {x y : Leg} (hne : x ≠ y) (s : State) :
    (∀ z, ((reconcilePass (doSwap x y s)).bank z).logical = (exchanged x y (fun z => bankBeforeSwap x y z s) z).logical) ∧
    (x = .r ∨ y = .r → (reconcilePass (doSwap x y s)).tx.linSaved = false) := by
  have h := swap_passes x y s
  refine ⟨fun z => by rw [(h.banks z).logical, swapped_bank hne], fun hreal => ?_⟩
  rw [h.tx]
  exact readied_linSaved hreal s

/-- A second swap finds both legs as the first left them. -/
theorem Swaps.again {a b : BitVec 2} {x y : Leg} (h : Swaps a b x y s) : Swaps a b x y (reconcilePass (doSwap x y s)) := by
  obtain ⟨hbanks, -⟩ := swap_banks h.ne s
  have halloc (z : Leg) : (bankBeforeSwap x y z s).alloc = (s.bank z).alloc := by
    rw [bankBeforeSwap]
    split
    · next hz => rw [hz.2]; rfl
    · rfl
  have hkeep (z : Leg) : ((reconcilePass (doSwap x y s)).bank z).alloc =
      (exchanged x y (fun z => bankBeforeSwap x y z s) z).alloc := (Bank.logical_fields (hbanks z)).1
  refine ⟨?_, h.left, h.right, h.ne, ?_, ?_⟩
  · have hrun : Run true s (reconcilePass (doSwap x y s)) := (doSwap_run x y s).trans (reconcilePass_run _)
    rw [hrun.kept.configured]
    exact h.configured
  · rw [hkeep, exchanged, if_pos rfl]
    exact (halloc y).trans h.rightAlloc
  · rw [hkeep, exchanged, if_neg (Ne.symm h.ne), if_pos rfl]
    exact (halloc x).trans h.leftAlloc

/-- Swapping twice gives back the banks the first swap found. -/
theorem swap_twice {x y : Leg} (hne : x ≠ y) (z : Leg) (s : State) :
    ((reconcilePass (doSwap x y (reconcilePass (doSwap x y s)))).bank z).logical = (bankBeforeSwap x y z s).logical := by
  obtain ⟨hfirst, hlin⟩ := swap_banks hne s
  obtain ⟨hsecond, -⟩ := swap_banks hne (reconcilePass (doSwap x y s))
  rw [hsecond]
  calc (exchanged x y (fun z => bankBeforeSwap x y z (reconcilePass (doSwap x y s))) z).logical
    _ = (exchanged x y (exchanged x y fun z => bankBeforeSwap x y z s) z).logical :=
        exchanged_logical (fun z => by rw [bankBeforeSwap_of_notSaved hlin, hfirst]) x y z
    _ = (bankBeforeSwap x y z s).logical := by rw [exchanged_twice hne]

/-- `DO_SWAP` twice, without the passes. -/
theorem doSwap_twice {x y : Leg} (hne : x ≠ y) (hlin : s.tx.linSaved = false) :
    (doSwap x y (doSwap x y s)).banks = s.banks := by
  have hfirst := (doSwap_acts x y).spoken s
  have hsecond := (doSwap_acts x y).spoken (doSwap x y s)
  have hlin' : (doSwap x y s).tx.linSaved = false := by
    rw [hfirst.tx]
    by_cases hreal : x = .r ∨ y = .r
    · exact readied_linSaved hreal s
    · rw [readied_of_others (not_or.mp hreal).1 (not_or.mp hreal).2]
      exact hlin
  have hbank (z : Leg) : (doSwap x y (doSwap x y s)).bank z = s.bank z := by
    rw [hsecond.bank, swapped_bank hne]
    simp only [bankBeforeSwap_of_notSaved fun _ => hlin', hfirst.bank, swapped_bank hne, bankBeforeSwap_of_notSaved fun _ => hlin]
    rw [exchanged_twice hne]
  calc (doSwap x y (doSwap x y s)).banks
    _ = ⟨(doSwap x y (doSwap x y s)).bank .r, (doSwap x y (doSwap x y s)).bank .cw, (doSwap x y (doSwap x y s)).bank .tw⟩ := rfl
    _ = s.banks := by rw [hbank, hbank, hbank]; rfl

end Sys2Proof.Machine

namespace Sys2Proof

open Sys2Proof.Machine

/-- Settles O41: the branches of R193; the pass writes no bank that is free. -/
theorem releaseWord : Obligations.ReleaseWord := by
  intro s leg x hc hleg
  simp only [exec_hostRelease_of_configured hc]
  refine ⟨congrArg _ (withLeg_three _ s), fun hx => congrArg _ ?_, fun hx ha => congrArg _ (hostReleaseBody_free hleg hx ha),
    fun hx ha => ?allocated⟩
  · simp [hostReleaseBody, withLeg_of_legOf hleg, hx]
  case allocated =>
    have h := (releaseLeg_acts x).thenPass s
    have hbank (y : Leg) : (s.updBank x fun _ => Bank.empty).bank y = if y = x then Bank.empty else s.bank y := State.bank_updBank ..
    have hempty := (h.banks x).free (by rw [hbank, if_pos rfl]; rfl)
    rw [hbank, if_pos rfl] at hempty
    refine ⟨_, congrArg _ (hostReleaseBody_allocated hleg hx ha), hempty, fun y hy => ?_, h.line, h.tx, h.conf,
      h.callFrame rfl rfl rfl rfl rfl rfl rfl, ((releaseLeg_told x s).before (reconcilePass_passes _).out).newWords, h.noError rfl rfl (by decide)⟩
    have hother := (h.banks y).logical
    rwa [hbank, if_neg hy] at hother

/-- Settles O42: `DO_SWAP` is the exchange of the banks it finds, and a pass. -/
theorem swapWord : Obligations.SwapWord := by
  refine ⟨fun s a b hc hnone => ?_, fun s a b x y hc ha hb => ?_⟩
  · rw [exec_hostSwap_of_configured hc, hostSwapBody_of_none hnone]
  simp only [exec_hostSwap_of_configured hc]
  refine ⟨fun hxy => congrArg _ ?_, fun hne hfree => congrArg _ (hostSwapBody_free ha hb hne hfree), fun hne hx hy => ?swapped⟩
  · rw [hostSwapBody_of_legs ha hb, if_pos hxy]
  case swapped =>
    have h := swap_passes x y s
    have hbank (z : Leg) := swapped_bank hne z s
    refine ⟨_, congrArg _ (hostSwapBody_allocated ha hb hne hx hy), ?_, ?_, fun z hzx hzy => ?_, fun hreal => ?_, fun hxr hyr => ?_,
      ?_, ?_⟩
    · rw [(h.banks x).logical, hbank, exchanged, if_pos rfl, bankBeforeSwap_pend]
    · rw [(h.banks y).logical, hbank, exchanged, if_neg (Ne.symm hne), if_pos rfl, bankBeforeSwap_pend]
    · rw [(h.banks z).logical, hbank, exchanged, if_neg hzx, if_neg hzy, bankBeforeSwap, if_neg]
      rintro ⟨rfl | rfl, rfl⟩
      · exact hzx rfl
      · exact hzy rfl
    · rw [readied_of_real hreal] at h
      exact ⟨h.line, h.tx, h.conf⟩
    · rw [readied_of_others hxr hyr] at h
      exact ⟨h.line, h.tx, h.conf⟩
    · by_cases hreal : x = .r ∨ y = .r
      · rw [readied_of_real hreal] at h
        exact h.callFrame rfl rfl rfl rfl rfl rfl rfl
      · obtain ⟨hxr, hyr⟩ := not_or.mp hreal
        rw [readied_of_others hxr hyr] at h
        exact h.callFrame rfl rfl rfl rfl rfl rfl rfl
    · refine fun hacc => h.noError ?_ ?_ (by decide) hacc <;> by_cases hreal : x = .r ∨ y = .r
      all_goals first | rw [readied_of_real hreal]; rfl | rw [readied_of_others (not_or.mp hreal).1 (not_or.mp hreal).2]; rfl

/-- Settles O43: two exchanges undo each other; only a linear mode that a spill had saved comes back besides. -/
theorem swapIsInvolution : Obligations.SwapIsInvolution := by
  intro s t u a b ht hu
  suffices h : (∀ x : Leg, { (u.bank x).logical with linear := (s.bank x).linear } = (s.bank x).logical) ∧
      (s.tx.linSaved = false → SameBanks s u) from ⟨h.1, h.2, fun x y hne hlin => doSwap_twice hne hlin⟩
  by_cases hs : ∃ x y, Swaps a b x y s
  · obtain ⟨x, y, hs⟩ := hs
    obtain rfl := Host.Outcome.next.inj (ht.symm.trans (exec_hostSwap_of_swaps hs))
    obtain rfl := Host.Outcome.next.inj (hu.symm.trans (exec_hostSwap_of_swaps hs.again))
    refine ⟨fun z => ?_, fun hlin z => ?_⟩
    · rw [swap_twice hs.ne, bankBeforeSwap_linear]
    · rw [swap_twice hs.ne, bankBeforeSwap_of_notSaved fun _ => hlin]
  · have hst := exec_hostSwap_talk (fun x y h => hs ⟨x, y, h⟩) ht
    have hnone (x y : Leg) (h : Swaps a b x y t) : False := by
      refine hs ⟨x, y, ?_, h.left, h.right, h.ne, ?_, ?_⟩
      · rw [← hst.line]; exact h.configured
      · rw [← hst.bank]; exact h.leftAlloc
      · rw [← hst.bank]; exact h.rightAlloc
    have hsu := hst.trans (exec_hostSwap_talk hnone hu)
    exact ⟨fun x => by rw [hsu.bank]; rfl, fun _ x => by rw [hsu.bank]⟩

end Sys2Proof

end

/-! PROOFS. The flashes of the LOOP family (O27, O28, O29) and the ring back of a waiting call (O23). -/

section

namespace Sys2Proof.Machine

variable {s t u : State} {i : Instr} {j k : Nat}

/-- A change of `ST` where no tone is recorded. -/
theorem LineRegs.goneTo_of_noTone {l : LineRegs} (h : l.tone = .none) (x : CallState) : l.goneTo x = { l with st := x } := by
  rw [LineRegs.goneTo, h, ite_self]

/-- `goto` after the tone was stopped. -/
theorem Acts.thenGoTo {p f : State → State} (h : Acts k p f) (htone : ∀ s, (p s).line.tone = .none) (x : CallState) :
    Acts (k + 1) (fun s => (p s).updLine fun l => { l with st := x }) (fun s => goTo x (f s)) :=
  (h.then (goTo_acts x)).of_eq fun s => congrArg (fun l => { p s with line := l }) (LineRegs.goneTo_of_noTone (htone s) x)

theorem indicateLeg_told (x : Leg) (i : Ind) (s : State) : Told (indWord (lineId s) (legField4 x) i) s (indicateLeg x i s) :=
  emit_told _ s

/-- Real was disposed of, and the banks `x` and `y` change places: Real is one of them. -/
theorem doSwap_real_acts (y : Leg) : Acts 2 (fun s => exchangeBanks .r y (discarded (toneStopped s))) (doSwap .r y) :=
  (doSwap_acts .r y).of_eq fun s => congrArg (exchangeBanks .r y) (readied_of_real (.inl rfl) s)

/-! ### The dispatcher (R200) -/

theorem exec_loopFlash (hi : i = .hwWinkflash ∨ i = .fakeWinkflash) (hs : LineReady s) (hf : familyOf s.cfg = .loop) :
    exec i s = .next (flashDispatch s) := by
  have hloop : winkflash s = flashDispatch s := by rw [winkflash, hf]
  rw [exec_winkflash_of_lineReady hs hi, hloop]

theorem flashDispatch_noCall (h : s.banks.real.owned = false ∨ s.line.st = .idle ∨ s.line.st = .offered) :
    flashDispatch s = raise .unexpected s := by
  rw [flashDispatch, if_pos (by obtain h | h | h := h <;> simp [h])]

section InCall

variable (hst : s.line.st.isCall = true) (ho : s.banks.real.owned = true)
include hst ho

theorem flashDispatch_call :
    flashDispatch s =
      if s.banks.cw.owned then flashSwap s
      else if s.banks.tw.owned then
        if isBounce s then lineDown .bounce none s
        else if s.line.st == .threeWayDialing then flashUndo s
        else if s.banks.tw.in3way then flashDrop s
        else flashMerge s
      else flashBuild s := by
  rw [flashDispatch, if_neg (by obtain h | h | h := isCall_iff.mp hst <;> simp [h, ho])]

theorem flashDispatch_waiting (hcw : s.banks.cw.owned = true) : flashDispatch s = flashSwap s := by
  rw [flashDispatch_call hst ho, if_pos hcw]

theorem flashDispatch_build (hcw : s.banks.cw.owned = false) (htw : s.banks.tw.owned = false) : flashDispatch s = flashBuild s := by
  rw [flashDispatch_call hst ho, if_neg (by simp [hcw]), if_neg (by simp [htw])]

theorem flashDispatch_threeWay (hcw : s.banks.cw.owned = false) (htw : s.banks.tw.owned = true) :
    flashDispatch s =
      if isBounce s then lineDown .bounce none s
      else if s.line.st == .threeWayDialing then flashUndo s
      else if s.banks.tw.in3way then flashDrop s
      else flashMerge s := by
  rw [flashDispatch_call hst ho, if_neg (by simp [hcw]), if_pos htw]

end InCall

theorem isBounce_iff :
    isBounce s = true ↔ s.line.flashV = true ∧ (s.line.now - s.line.flashT).toNat < s.par.minMsSinceFlash := by
  rw [isBounce, Bool.and_eq_true, decide_eq_true_iff]
  rfl

/-! ### The call-waiting swap (R201) -/

theorem stampFlash_silent : Silent stampFlash := updLine_silent _

theorem curlegReal_silent : Silent curlegReal := updLine_silent _

theorem pendReal_silent (p : PendBit) : Silent (pendReal p) := updBank_silent _ _

/-- The registers after the call-waiting swap (R201); `p` is what the owner of the call taken up is told. -/
def swappedOver (p : PendBit) (s : State) : State :=
  { s with
    line := { s.line with
      st := .onHold, flashT := s.line.now, flashV := true, cwrepeat := 0, postwin := 0, tone := .none, curleg := some .r }
    banks := { s.banks with
      real := { s.banks.cw with pend := s.banks.real.pend ||| p.mask }
      cw := { s.banks.real with pend := s.banks.cw.pend ||| PendBit.needHold.mask, linear := linearAfterDiscard s } }
    conf := { s.conf with confSusp := false, saveconf := descNone }
    tx := SpillRegs.reset }

/-- What the owner of the call taken up is told (R201). -/
def takenUpPend (st : CallState) : PendBit := if st != .onHold then .needAnswer else .needUnhold

theorem flashSwap_passes (s : State) : Passes 10 (swappedOver (takenUpPend s.line.st) s) (flashSwap s) := by
  have h (p : PendBit) := (((((stampFlash_silent.acts.then (doSwap_real_acts .cw)).thenSilent
    (updLine_silent fun l => { l with cwrepeat := 0 })).thenSilent (updBank_silent .cw (Bank.setPend .needHold))).thenSilent
    (pendReal_silent p)).thenGoTo (fun _ => rfl) .onHold).thenSilent curlegReal_silent
  refine ((h (takenUpPend s.line.st)).of_eq fun s => ?_).thenPass s
  simp only [swappedOver, State.updLine, State.updBank, State.updBanks, pendReal, stampFlash, exchangeBanks, discarded,
    toneStopped, curlegReal, Bank.setPend, Banks.upd, State.bank, Banks.get, linearAfterDiscard]

/-! ### The three-way build (R204) -/

theorem flashBuild_refused (h : hasFeature s.cfg .threeWay = false ∨ s.line.st ≠ .active) : flashBuild s = raise .unexpected s := by
  rw [flashBuild, if_pos (by obtain h | h := h <;> simp [h])]

theorem flashBuild_allowed (hf : hasFeature s.cfg .threeWay = true) (hst : s.line.st = .active) :
    flashBuild s = allocLeg .tw flashBuildAllocated (raise .conflict) (raise .lrOpen) s := by
  rw [flashBuild, if_neg (by simp [hf, hst])]

/-- `flashBuildAllocated` up to the dial-recall tone. -/
def buildMove (s : State) : State := s |> stampFlash |> doSwap .r .tw |> goTo .threeWayDialing

/-- `flashBuildAllocated` after `SPAWNSETUP`, but for the pass. -/
def buildRest (s : State) : State := s |> State.updBank .tw (Bank.setPend .needHold) |> curlegReal

theorem flashBuildAllocated_eq (s : State) :
    flashBuildAllocated s =
      reconcilePass (buildRest (indicateLeg .r .spawnSetup ((startTone .dialrecall (buildMove s)).updBank .r (Bank.own 0)))) := rfl

/-- The registers when Real is free for the new call (R204). -/
def buildMoved (s : State) : State :=
  { s with
    line := { s.line with st := .threeWayDialing, flashT := s.line.now, flashV := true, postwin := 0, tone := .none }
    banks := { s.banks with
      real := { s.banks.tw with pend := s.banks.real.pend }
      tw := { s.banks.real with pend := s.banks.tw.pend, linear := linearAfterDiscard s } }
    conf := { s.conf with confSusp := false, saveconf := descNone }
    tx := SpillRegs.reset }

theorem buildMove_acts : Acts 3 buildMoved buildMove := by
  refine ((stampFlash_silent.acts.then (doSwap_real_acts .tw)).thenGoTo (fun _ => rfl) .threeWayDialing).of_eq fun s => ?_
  simp only [buildMoved, State.updLine, State.updBank, State.updBanks, stampFlash, exchangeBanks, discarded, toneStopped,
    Banks.upd, State.bank, Banks.get, linearAfterDiscard]

theorem buildRest_silent : Silent buildRest := fun _ _ _ _ _ => rfl

/-- The registers after the three-way build (R204). -/
def built (s : State) : State :=
  { s with
    line := { s.line with
      st := .threeWayDialing, flashT := s.line.now, flashV := true, postwin := 0, tone := .dialrecall, curleg := some .r }
    banks := { s.banks with
      real := { s.banks.tw with pend := s.banks.real.pend, owned := true, owner := 0 }
      tw := { s.banks.real with pend := s.banks.tw.pend ||| PendBit.needHold.mask, linear := linearAfterDiscard s } }
    conf := { s.conf with confSusp := false, saveconf := descNone }
    tx := SpillRegs.reset }

theorem flashBuildAllocated_passes (s : State) : Passes 11 (built s) (flashBuildAllocated s) := by
  have h := ((((buildMove_acts.then (startTone_acts .dialrecall)).thenSilent (updBank_silent .r (Bank.own 0))).then
    (indicateLeg_acts .r .spawnSetup)).thenSilent buildRest_silent)
  refine (h.of_eq (q := built) fun s => ?_).thenPass s
  simp only [built, buildMoved, buildRest, State.updLine, State.updBank, State.updBanks, curlegReal, Bank.setPend, Bank.own,
    Banks.upd, id]

/-- The dial-recall tone goes to the new resource, and the new call is announced. -/
theorem flashBuildAllocated_told (s : State) :
    Told (lrWord (lineId s) (handleField s.banks.tw.res) (.tonePlay .dialrecall)) s (flashBuildAllocated s) ∧
    Told (indWord (lineId s) 0 .spawnSetup) s (flashBuildAllocated s) := by
  have hmove := (buildMove_acts.spoken s).toTalk
  have htone := startTone_acts .dialrecall |>.spoken (buildMove s)
  obtain ⟨v, hvdef⟩ : ∃ v, v = (startTone .dialrecall (buildMove s)).updBank .r (Bank.own 0) := ⟨_, rfl⟩
  have hv : lineId v = lineId s := hvdef ▸ htone.lineId.trans hmove.lineId
  have hplay : Told (lrWord (lineId s) (handleField s.banks.tw.res) (.tonePlay .dialrecall)) (buildMove s) v := by
    have h := lrReal_told (.tonePlay .dialrecall) (buildMove s)
    rw [hmove.lineId, realH, hmove.banks] at h
    rw [hvdef]
    exact h
  have hspawn : Told (indWord (lineId s) 0 .spawnSetup) v (indicateLeg .r .spawnSetup v) := hv ▸ indicateLeg_told .r .spawnSetup v
  have hrest : (indicateLeg .r .spawnSetup v).env.out <+: (flashBuildAllocated s).env.out := by
    rw [flashBuildAllocated_eq, ← hvdef]
    exact buildRest_silent.acts.outThenPass (indicateLeg .r .spawnSetup v)
  have hout := buildMove_acts.out s
  refine ⟨(hplay.before ((emit_talk _ v).out.trans hrest)).after hout, (hspawn.before hrest).after (hout.trans ?_)⟩
  rw [hvdef]
  exact (startTone_acts .dialrecall).out (buildMove s)

/-! ### Merge, drop and undo (R205 to R207) -/

/-- The registers after the merge (R205). -/
def merged (s : State) : State :=
  { s with
    line := { s.line with flashT := s.line.now, flashV := true, postwin := 0, tone := .none, curleg := some .r }
    banks := { s.banks with
      real := { s.banks.tw with in3way := true, pend := s.banks.real.pend ||| PendBit.needUnhold.mask }
      tw := { s.banks.real with in3way := true, pend := s.banks.tw.pend, linear := linearAfterDiscard s } }
    conf := { s.conf with confSusp := false, saveconf := descNone }
    tx := SpillRegs.reset }

theorem flashMerge_passes (s : State) : Passes 9 (merged s) (flashMerge s) := by
  have h := (((((stampFlash_silent.acts.thenSilent (updBank_silent .r fun b => { b with in3way := true })).thenSilent
    (updBank_silent .tw fun b => { b with in3way := true })).then (doSwap_real_acts .tw)).thenSilent
    (pendReal_silent .needUnhold)).thenSilent curlegReal_silent)
  refine (h.of_eq (q := merged) fun s => ?_).thenPass s
  simp only [merged, State.updLine, State.updBank, State.updBanks, pendReal, stampFlash, exchangeBanks, discarded, toneStopped,
    curlegReal, Bank.setPend, Banks.upd, State.bank, Banks.get, linearAfterDiscard]

/-- `flashDrop` after the ThreeWay leg's owner was told, but for the pass. -/
def dropRest (s : State) : State := s |> releaseLeg .tw |> State.updBank .r (fun b => { b with in3way := false })

theorem flashDrop_eq (s : State) : flashDrop s = reconcilePass (dropRest (notifyHangup .tw .dropped (stampFlash s))) := rfl

theorem dropRest_acts :
    Acts 3 (fun s => (s.updBank .tw fun _ => Bank.empty).updBank .r fun b => { b with in3way := false }) dropRest :=
  (releaseLeg_acts .tw).thenSilent (updBank_silent .r _)

theorem flashDrop_passes (s : State) :
    Passes 10
      (((stampFlash s).updBank .tw fun _ => Bank.empty).updBank .r fun b => { b with in3way := false }) (flashDrop s) :=
  ((stampFlash_silent.acts.then (notifyHangup_acts .tw .dropped)).then dropRest_acts).thenPass s

theorem flashDrop_told (s : State) : Told (indWord (lineId s) 2 (.hangup s.banks.tw.owner .dropped)) s (flashDrop s) := by
  rw [flashDrop_eq]
  exact (indicateLeg_told .tw _ (stampFlash s)).before (dropRest_acts.outThenPass (notifyHangup .tw .dropped (stampFlash s)))

/-- `flashUndo` after the third party was told, but for the pass. -/
def undoRest (s : State) : State :=
  s |> State.updBank .r Bank.disown |> doSwap .r .tw |> releaseLeg .tw |> goTo .active |> pendReal .needUnhold |> curlegReal

theorem flashUndo_eq (s : State) : flashUndo s = reconcilePass (undoRest (notifyHangup .r .undo (stampFlash s))) := rfl

/-- The registers after the undoing of a build (R207). -/
def undone (s : State) : State :=
  { s with
    line := { s.line with st := .active, postwin := 0, tone := .none, curleg := some .r }
    banks := { s.banks with
      real := { s.banks.tw with pend := s.banks.real.pend ||| PendBit.needUnhold.mask }
      tw := Bank.empty }
    conf := { s.conf with confSusp := false, saveconf := descNone }
    tx := SpillRegs.reset }

theorem undoRest_acts : Acts 6 undone undoRest := by
  have h := (((((updBank_silent .r Bank.disown).acts.then (doSwap_real_acts .tw)).then (releaseLeg_acts .tw)).thenGoTo
    (fun _ => rfl) .active).thenSilent (pendReal_silent .needUnhold)).thenSilent curlegReal_silent
  refine h.of_eq fun s => ?_
  simp only [undone, State.updLine, State.updBank, State.updBanks, pendReal, exchangeBanks, discarded, toneStopped, curlegReal,
    Bank.setPend, Bank.disown, Banks.upd, State.bank, Banks.get]

theorem flashUndo_passes (s : State) : Passes 13 (undone (stampFlash s)) (flashUndo s) :=
  ((stampFlash_silent.acts.then (notifyHangup_acts .r .undo)).then undoRest_acts).thenPass s

theorem flashUndo_told (s : State) : Told (indWord (lineId s) 0 (.hangup s.banks.real.owner .undo)) s (flashUndo s) := by
  rw [flashUndo_eq]
  exact (indicateLeg_told .r _ (stampFlash s)).before (undoRest_acts.outThenPass (notifyHangup .r .undo (stampFlash s)))

end Sys2Proof.Machine

namespace Sys2Proof

open Sys2Proof.Machine

/-- Settles O27: the silent function of `flashSwap`. -/
theorem flashSwapsWaitingCall : Obligations.FlashSwapsWaitingCall := by
  intro s i hi hs hf hst ho hcw
  have h := flashSwap_passes s
  have hpend : (takenUpPend s.line.st).mask =
      if s.line.st = CallState.onHold then PendBit.needUnhold.mask else PendBit.needAnswer.mask := by
    cases s.line.st <;> rfl
  have hreal := (h.banks .r).logical
  rw [State.bank, State.bank, swappedOver, hpend] at hreal
  exact ⟨_, by rw [exec_loopFlash hi hs hf, flashDispatch_waiting hst ho hcw], h.line, hreal, (h.banks .cw).logical,
    (h.banks .tw).logical, ⟨h.tx, h.conf⟩, h.callFrame rfl rfl rfl rfl rfl rfl rfl, h.noError rfl rfl (by decide)⟩

/-- Settles O28: the dispatcher's last branch; after `OPEN` the silent function of the build. -/
theorem flashBuildsThreeWay : Obligations.FlashBuildsThreeWay := by
  intro s i hi hs hf
  rw [exec_loopFlash hi hs hf]
  refine ⟨fun h => congrArg _ (flashDispatch_noCall h), fun hst ho hcw htw h => ?refused, fun hst ho hcw htw hfeat ha => ?conflict,
    fun hst ho hcw htw hfeat ha => ⟨fun hacc => ?accepted, fun href => ?refusedOpen⟩⟩
  case refused => rw [flashDispatch_build hst ho hcw htw, flashBuild_refused h]
  all_goals
    have hcall : s.line.st.isCall = true := by rw [hst]; rfl
    rw [flashDispatch_build hcall ho hcw htw, flashBuild_allowed hfeat hst]
  case conflict => rw [allocLeg_inUse (show (s.bank .tw).alloc = true from ha)]
  all_goals rw [allocLeg_free (show (s.bank .tw).alloc = false from ha)]
  case accepted =>
    rw [lrCase_of_acceptingNext hacc]
    let v := (spoke (lrWord (lineId s) (handleField (freeHandle s)) .openLine) s).updBank .tw fun _ => freshBank (freeHandle s)
    have h := flashBuildAllocated_passes v
    obtain ⟨hplay, hspawn⟩ := flashBuildAllocated_told v
    have hopen : s.env.out <+: v.env.out := ⟨[_], rfl⟩
    refine ⟨flashBuildAllocated v, rfl, h.line, (h.banks .r).logical, (h.banks .tw).logical.trans ?_, (h.banks .cw).logical,
      ⟨h.tx, h.conf⟩, h.callFrame rfl rfl rfl rfl rfl rfl rfl,
      newWords_head? (w := lrWord (lineId s) (handleField (freeHandle s)) .openLine) rfl h.out,
      (hplay.after hopen).newWords, (hspawn.after hopen).newWords, fun hall => ?_⟩
    · exact congrArg (fun p => { s.banks.real with pend := p, linear := linearAfterDiscard s }.logical) (BitVec.zero_or)
    · exact (h.smooth 52 (hall.accepts.spoke _)).1
  case refusedOpen => rw [lrCase_of_refusing href]

/-- Settles O29: the branches of the dispatcher on an owned ThreeWay leg. -/
theorem flashOnThreeWayLeg : Obligations.FlashOnThreeWayLeg := by
  intro s i hi hs hf hst ho hcw htw
  rw [exec_loopFlash hi hs hf, flashDispatch_threeWay hst ho hcw htw]
  refine ⟨fun hb => ?bounce, fun hb hdial h3 => ?merge, fun hb hdial h3 => ?drop, fun hb hdial => ?undo⟩
  case bounce =>
    rw [if_pos (isBounce_iff.mpr hb)]
    exact ⟨_, rfl, lineDown_hungUp _ _ s, lineDown_noError _ _⟩
  all_goals rw [if_neg (fun h => hb (isBounce_iff.mp h))]
  case undo =>
    rw [if_pos (by simp [hdial])]
    have h := flashUndo_passes s
    have hfree := (h.banks .tw).free rfl
    exact ⟨_, rfl, h.line, (h.banks .r).logical, hfree, (h.banks .cw).logical, ⟨h.tx, h.conf⟩,
      h.callFrame rfl rfl rfl rfl rfl rfl rfl, (flashUndo_told s).newWords, h.noError rfl rfl (by decide)⟩
  all_goals rw [if_neg (by simp [hdial])]
  case merge =>
    rw [if_neg (by simp [h3])]
    have h := flashMerge_passes s
    exact ⟨_, rfl, h.line, (h.banks .r).logical, (h.banks .tw).logical, (h.banks .cw).logical, ⟨h.tx, h.conf⟩,
      h.callFrame rfl rfl rfl rfl rfl rfl rfl, h.noError rfl rfl (by decide)⟩
  case drop =>
    rw [if_pos h3]
    have h := flashDrop_passes s
    have hfree := (h.banks .tw).free rfl
    exact ⟨_, rfl, h.line, (h.banks .r).logical, hfree, (h.banks .cw).logical, h.tx, h.conf,
      h.callFrame rfl rfl rfl rfl rfl rfl rfl, (flashDrop_told s).newWords, h.noError rfl rfl (by decide)⟩

end Sys2Proof

end

/-! PROOFS. The call that takes another one's place: `ONHOOK` with a waiting call (O23), `HANGUP` (O50, O51). -/

section

namespace Sys2Proof.Machine

variable {s t u : State} {i : Instr} {j k : Nat}

/-! ### `ONHOOK` with a waiting call (R141) -/

/-- `onhookRingBack` from there to `SETHOOK RING`; `timeout` is the ring budget. -/
def ringBackMove (timeout : Half) (s : State) : State :=
  s |> onlyIf (fun s => s.banks.tw.alloc) (fun s =>
        s |> onlyIf (fun s => s.banks.tw.owned) (notifyHangup .tw .onhook) |> releaseLeg .tw)
    |> State.updBank .r Bank.hungUp
    |> spillDiscard
    |> State.updLine (fun l => { l with cwrepeat := 0 })
    |> doSwap .r .cw
    |> releaseLeg .cw
    |> goTo .offered
    |> State.updLine (LineRegs.ringBack timeout)

/-- What the owner of the call that rings back is told. -/
def ringBackTell (held : Bool) (s : State) : State :=
  s |> pendReal .needRinging |> onlyIf (fun _ => held) (pendReal .needUnhold)

theorem onhookRingBack_eq (s : State) :
    onhookRingBack s =
      reconcilePass (ringBackTell (s.line.st == .onHold)
        (lrReal (.setHook .ring) (ringBackMove (ticksOf s.par (cfgRingTimeoutMs s.cfg)) (notifyHangup .r .onhook s)))) := by
  rw [onhookRingBack, ringBackTell, ringBackMove]

/-- An indication that an owner is sent is at most that, when it is sent to an owner only. -/
theorem Acts.ifOwned {f : State → State} (h : Acts k id f) (x : Leg) :
    Acts k id (Machine.onlyIf (fun s => (s.bank x).owned) f) :=
  (Acts.onlyIf (c := fun s => (s.bank x).owned) (fun _ _ _ _ _ => by cases x <;> rfl) h).of_eq fun s => by
    cases hx : (s.bank x).owned <;> simp [Machine.onlyIf, hx]

/-- The registers when the other call has moved to Real (R141). -/
def ringMoved (timeout : Half) (s : State) : State :=
  { s with
    line := { s.line with
      st := .offered, calldir := .outRing, ringing := true, ringt := timeout, answered := false, flashV := false, tone := .none,
      cwrepeat := 0, postwin := 0, curleg := none }
    banks := { real := { s.banks.cw with pend := 0 }, cw := Bank.empty, tw := s.banks.tw.dropped }
    conf := { s.conf with confSusp := false, saveconf := descNone }
    tx := SpillRegs.reset }

theorem ringBackMove_acts (timeout : Half) : Acts 10 (ringMoved timeout) (ringBackMove timeout) := by
  have htw := (((notifyHangup_acts .tw .onhook).ifOwned .tw).then (releaseLeg_acts .tw)).of_eq
    (q := State.updBank .tw fun _ => Bank.empty) fun _ => rfl
  have h := ((((((((dropLeg_acts htw).thenSilent (updBank_silent .r Bank.hungUp)).then spillDiscard_acts).thenSilent
    (updLine_silent fun l => { l with cwrepeat := 0 })).then (doSwap_real_acts .cw)).then (releaseLeg_acts .cw)).thenGoTo
    (fun _ => rfl) .offered).thenSilent (updLine_silent (LineRegs.ringBack timeout)))
  refine h.of_eq fun s => ?_
  simp only [ringMoved, State.updLine, State.updBank, State.updBanks, exchangeBanks, discarded, toneStopped, Banks.upd, State.bank,
    Banks.get, Bank.hungUp, LineRegs.ringBack]

theorem ringBackTell_silent (held : Bool) : Silent (ringBackTell held) := by
  cases held <;> exact fun _ _ _ _ _ => rfl

theorem onhookRingBack_passes (s : State) :
    Passes 18 (ringBackTell (s.line.st == .onHold) (ringMoved (ticksOf s.par (cfgRingTimeoutMs s.cfg)) s)) (onhookRingBack s) :=
  ((((notifyHangup_acts .r .onhook).then (ringBackMove_acts (ticksOf s.par (cfgRingTimeoutMs s.cfg)))).then
    (lrReal_acts (.setHook .ring))).thenSilent (ringBackTell_silent (s.line.st == .onHold))).thenPass s

/-- The owner of the call that was hung up is told, and the resource of the other one rings. -/
theorem onhookRingBack_told (s : State) :
    Told (indWord (lineId s) 0 (.hangup s.banks.real.owner .onhook)) s (onhookRingBack s) ∧
    Told (lrWord (lineId s) (handleField s.banks.cw.res) (.setHook .ring)) s (onhookRingBack s) := by
  obtain ⟨timeout, htimeout⟩ : ∃ timeout, timeout = ticksOf s.par (cfgRingTimeoutMs s.cfg) := ⟨_, rfl⟩
  have hnotify : Told (indWord (lineId s) 0 (.hangup s.banks.real.owner .onhook)) s (notifyHangup .r .onhook s) :=
    indicateLeg_told .r _ s
  have hmove := (((notifyHangup_acts .r .onhook).then (ringBackMove_acts timeout)).spoken s).toTalk
  have hring := lrReal_told (.setHook .ring) (ringBackMove timeout (notifyHangup .r .onhook s))
  rw [hmove.lineId, realH, hmove.banks] at hring
  have hrest := (ringBackTell_silent (s.line.st == .onHold)).acts.outThenPass
    (lrReal (.setHook .ring) (ringBackMove timeout (notifyHangup .r .onhook s)))
  have hbefore := ((notifyHangup_acts .r .onhook).then (ringBackMove_acts timeout)).out s
  have hafter := ((((ringBackMove_acts timeout).then (lrReal_acts (.setHook .ring))).thenSilent
    (ringBackTell_silent (s.line.st == .onHold)))).outThenPass (notifyHangup .r .onhook s)
  rw [onhookRingBack_eq, ← htimeout]
  exact ⟨hnotify.before hafter, (hring.before hrest).after hbefore⟩

theorem onhookBody_waiting (hst : s.line.st.isCall = true) (hcw : s.banks.cw.owned = true) :
    onhookBody s = onhookRingBack (setHookReg false s) := by
  have hbody : onhookInCall (setHookReg false s) = onhookRingBack (setHookReg false s) := if_pos hcw
  have hcase (l : CallState) (hl : s.line.st = l) : (setHookReg false s).line.st = l := hl
  obtain hst | hst | hst := isCall_iff.mp hst <;>
    · rw [onhookBody, onhookCase, hcase _ hst]
      exact hbody

/-! ### `HANGUP R` (R392, R393) -/

/-- A notification that depends on a fact of the state before. -/
def pendIf (b : Bool) (p : PendBit) (s : State) : State := onlyIf (fun _ => b) (pendReal p) s

theorem pendIf_silent (b : Bool) (p : PendBit) : Silent (pendIf b p) := by
  cases b <;> exact fun _ _ _ _ _ => rfl

/-- `TAKEOVER` without the notifications and the pass; `held` and `waiting` say what the call was. -/
def takeoverMove (y : Leg) (s : State) : State :=
  s |> State.updBank .r Bank.hungUp
    |> doSwap .r y
    |> releaseLeg y
    |> State.updBank .r (fun b => { b with in3way := false })
    |> State.updLine (fun l => { l with cwrepeat := 0 })

theorem takeover_eq (y : Leg) (s : State) :
    takeover y s =
      reconcilePass (curlegReal (goTo .active (pendIf (takeoverWaiting y s) .needAnswer
        (pendIf (takeoverHeld y s) .needUnhold (takeoverMove y s))))) := rfl

/-- The registers after the other call has moved to Real, but for notifications and `ST` (R393). -/
def takeoverMoved (y : Leg) (s : State) : State :=
  { s with
    line := { s.line with tone := .none, cwrepeat := 0, postwin := 0 }
    banks := { s.banks with real := { s.bank y with in3way := false, pend := 0 } }.upd y fun _ => Bank.empty
    conf := { s.conf with confSusp := false, saveconf := descNone }
    tx := SpillRegs.reset }

theorem takeoverMove_acts {y : Leg} (hy : y ≠ .r) : Acts 5 (takeoverMoved y) (takeoverMove y) := by
  have h := (((((updBank_silent .r Bank.hungUp).acts.then (doSwap_real_acts y)).then (releaseLeg_acts y)).thenSilent
    (updBank_silent .r fun b => { b with in3way := false })).thenSilent (updLine_silent fun l => { l with cwrepeat := 0 }))
  refine h.of_eq fun s => ?_
  cases y with
  | r => exact absurd rfl hy
  | cw | tw =>
    simp only [takeoverMoved, State.updLine, State.updBank, State.updBanks, exchangeBanks, discarded, toneStopped, Banks.upd,
      State.bank, Banks.get, Bank.hungUp]

/-- The registers after `TAKEOVER` (R393). -/
def takenOver (y : Leg) (held waiting : Bool) (s : State) : State :=
  curlegReal ((pendIf waiting .needAnswer (pendIf held .needUnhold (takeoverMoved y s))).updLine fun l => { l with st := .active })

theorem takeover_passes {y : Leg} (hy : y ≠ .r) (s : State) :
    Passes 13 (takenOver y (takeoverHeld y s) (takeoverWaiting y s) s) (takeover y s) :=
  (((((takeoverMove_acts hy).thenSilent (pendIf_silent (takeoverHeld y s) .needUnhold)).thenSilent
    (pendIf_silent (takeoverWaiting y s) .needAnswer)).thenGoTo
    (fun _ => by cases takeoverHeld y s <;> cases takeoverWaiting y s <;> rfl) .active).thenSilent curlegReal_silent).thenPass s

/-- What the call on `y` is told when it takes the other one's place (R393). -/
def takeoverPend (y : Leg) (s : State) : BitVec 7 :=
  if y = Leg.cw then (if s.line.st = CallState.onHold then PendBit.needUnhold.mask else PendBit.needAnswer.mask)
  else if s.banks.tw.in3way = true then 0 else PendBit.needUnhold.mask

theorem takenOver_eq {y : Leg} (hy : y ≠ .r) (s : State) :
    takenOver y (takeoverHeld y s) (takeoverWaiting y s) s =
      { s with
        line := { s.line with st := .active, tone := .none, cwrepeat := 0, postwin := 0, curleg := some .r }
        banks := { s.banks with real := { s.bank y with in3way := false, pend := takeoverPend y s } }.upd y fun _ => Bank.empty
        conf := { s.conf with confSusp := false, saveconf := descNone }
        tx := SpillRegs.reset } := by
  cases y with
  | r => exact absurd rfl hy
  | cw =>
    by_cases hst : s.line.st = .onHold <;>
      simp [takenOver, takeoverMoved, pendIf, onlyIf, takeoverHeld, takeoverWaiting, takeoverPend, hst, curlegReal, pendReal,
        State.updLine, State.updBank, State.updBanks, Banks.upd, State.bank, Banks.get, Bank.setPend]
  | tw =>
    cases hin : s.banks.tw.in3way <;>
      simp [takenOver, takeoverMoved, pendIf, onlyIf, takeoverHeld, takeoverWaiting, takeoverPend, hin, curlegReal, pendReal,
        State.updLine, State.updBank, State.updBanks, Banks.upd, State.bank, Banks.get, Bank.setPend]

theorem exec_hostHangup_of_configured (h : s.line.configured = true) (leg : BitVec 2) :
    exec (.hostHangup leg) s = .next (hostHangupBody leg s) := congrArg Host.Outcome.next (hostEntry_configured h)

theorem hostHangupBody_unowned {leg : BitVec 2} {x : Leg} (hleg : legOf leg = some x) (h : (s.bank x).owned = false) :
    hostHangupBody leg s = raise .unexpected s := by
  simp [hostHangupBody, withLeg_of_legOf hleg, h]

theorem hostHangupBody_real (h : s.banks.real.owned = true) : hostHangupBody 0 s = hangupReal s := by
  have hno : ¬ (!(s.bank .r).owned) = true := by simp [h]
  exact (withLeg_of_legOf (x := .r) rfl _ s).trans (if_neg hno)

theorem hostHangupBody_cw (h : s.banks.cw.owned = true) : hostHangupBody 1 s = hangupCw s := by
  have hno : ¬ (!(s.bank .cw).owned) = true := by simp [h]
  exact (withLeg_of_legOf (x := .cw) rfl _ s).trans (if_neg hno)

theorem hostHangupBody_tw (h : s.banks.tw.owned = true) : hostHangupBody 2 s = hangupTw s := by
  have hno : ¬ (!(s.bank .tw).owned) = true := by simp [h]
  exact (withLeg_of_legOf (x := .tw) rfl _ s).trans (if_neg hno)

/-! ### `HANGUP CW` and `HANGUP TW` (R392) -/

/-- The registers after `HANGUP CW` (R392). -/
def cwHungUp (s : State) : State :=
  let d := if s.tx.kind = .cwcid then discarded s else s
  { d with
    line := { d.line with
      st := if s.line.st = .onHold then .active else s.line.st
      tone := if s.line.st = .onHold then .none else s.line.tone
      cwrepeat := 0 }
    banks := { d.banks with cw := Bank.empty } }

theorem hangupCw_passes (s : State) : Passes 12 (cwHungUp s) (hangupCw s) := by
  have hmove (held : Bool) := ((((Acts.onlyIf (c := fun s => s.tx.kind == .cwcid) (fun _ _ _ _ _ => rfl) spillDiscard_acts).thenSilent
    (updLine_silent fun l => { l with cwrepeat := 0 })).then (releaseLeg_acts .cw)).then
    (Acts.onlyIf (c := fun _ => held) (fun _ _ _ _ _ => rfl) (goTo_acts .active)))
  have h := (hmove (s.line.st == .onHold)).thenPass s
  refine (congrArg (Passes 12 · (hangupCw s)) ?_).mp h
  by_cases hkind : s.tx.kind = .cwcid <;> by_cases hst : s.line.st = .onHold <;>
    simp [onlyIf, cwHungUp, hkind, hst, discarded, State.updLine, State.updBank, State.updBanks, Banks.upd, LineRegs.goneTo]

/-- The registers after `HANGUP TW` (R392). -/
def twHungUp (s : State) : State :=
  { s with
    line :=
      if s.line.st = .threeWayDialing then
        { s.line with
          st := .offered, calldir := .inbound, ringing := false, answered := false, flashV := false
          tone := if s.line.tone = .dialrecall then .dialtone else .none }
      else s.line
    banks := { s.banks with real := { s.banks.real with in3way := false }, tw := Bank.empty } }

theorem hangupTw_passes (s : State) : Passes 12 (twHungUp s) (hangupTw s) := by
  have hdial : Acts 2 (fun s => onlyIf (fun _ => s.line.tone == .dialrecall) (State.updLine fun l => { l with tone := .dialtone })
      (State.updLine (fun l => { l with calldir := .inbound, ringing := false, answered := false, flashV := false })
        (s.updLine (LineRegs.goneTo .offered)))) hangupTwDialing :=
    Acts.reading (c := fun s => s.line.tone == .dialrecall)
      (p := fun b s => onlyIf (fun _ => b) (State.updLine fun l => { l with tone := .dialtone })
        (State.updLine (fun l => { l with calldir := .inbound, ringing := false, answered := false, flashV := false })
          (s.updLine (LineRegs.goneTo .offered))))
      (f := fun b s => s |> goTo .offered
        |> State.updLine (fun l => { l with calldir := .inbound, ringing := false, answered := false, flashV := false })
        |> onlyIf (fun _ => b) (startTone .dialtone))
      (fun _ _ _ _ _ => rfl)
      fun b => ((goTo_acts .offered).thenSilent (updLine_silent _)).then
        (Acts.onlyIf (c := fun _ => b) (fun _ _ _ _ _ => rfl) (startTone_acts .dialtone))
  have h := ((((releaseLeg_acts .tw).thenSilent (updBank_silent .r fun b => { b with in3way := false })).then
    (Acts.onlyIf (c := fun s => s.line.st == .threeWayDialing) (fun _ _ _ _ _ => rfl) hdial))).thenPass s
  refine (congrArg (Passes 12 · (hangupTw s)) ?_).mp h
  by_cases hst : s.line.st = .threeWayDialing <;> by_cases htone : s.line.tone = .dialrecall <;>
    simp [onlyIf, twHungUp, hst, htone, State.updLine, State.updBank, State.updBanks, Banks.upd, LineRegs.goneTo]

end Sys2Proof.Machine

namespace Sys2Proof

open Sys2Proof.Machine

/-- Settles O23: the silent function of `onhookRingBack`. -/
theorem onhookRingsBack : Obligations.OnhookRingsBack := by
  intro s i hi hs hst hcw
  have hexec : exec i s = .next (onhookRingBack (setHookReg false s)) := by
    rw [exec_onhook hi s, lineEntry_open hs.configured (.inl hs.noAlarm), onhookBody_waiting hst hcw]
  have h := onhookRingBack_passes (setHookReg false s)
  obtain ⟨hdrop, hring⟩ := onhookRingBack_told (setHookReg false s)
  have htell (held : Bool) (u : State) : ringBackTell held u =
      { u with banks := { u.banks with real := { u.banks.real with
          pend := if held then u.banks.real.pend ||| PendBit.needRinging.mask ||| PendBit.needUnhold.mask
            else u.banks.real.pend ||| PendBit.needRinging.mask } } } := by
    cases held <;> rfl
  have hdropped : (s.banks.tw.dropped).alloc = false := Bank.dropped_alloc _
  rw [htell] at h
  refine ⟨_, hexec, h.line, (h.banks .r).logical.trans ?_, (h.banks .cw).free rfl, (h.banks .tw).free hdropped, ⟨h.tx, h.conf⟩,
    h.callFrame rfl rfl rfl rfl rfl rfl rfl, hdrop.newWords, hring.newWords, h.noError rfl rfl (by decide)⟩
  have hheld : (if ((setHookReg false s).line.st == .onHold) = true
        then (0 : BitVec 7) ||| PendBit.needRinging.mask ||| PendBit.needUnhold.mask else 0 ||| PendBit.needRinging.mask) =
      if s.line.st = CallState.onHold then PendBit.needRinging.mask ||| PendBit.needUnhold.mask else PendBit.needRinging.mask := by
    simp [setHookReg]
  exact congrArg (fun p => { s.banks.cw with pend := p }.logical) hheld

/-- Settles O50: `TAKEOVER` or `LINEDOWN`. -/
theorem hangupReal : Obligations.HangupReal := by
  intro s hc ho
  rw [exec_hostHangup_of_configured hc, hostHangupBody_real ho, Machine.hangupReal]
  refine ⟨fun hcw htw => ?down, fun y hy => ?moves⟩
  case down =>
    rw [if_neg (by simp [hcw]), if_neg (by simp [htw])]
    exact ⟨_, rfl, lineDown_hungUp _ _ s, lineDown_noError _ _⟩
  case moves =>
    have hyr : y ≠ .r := by obtain ⟨rfl, -⟩ | ⟨rfl, -⟩ := hy <;> decide
    have heq : (if s.banks.cw.owned then takeover .cw s else if s.banks.tw.owned then takeover .tw s
        else lineDown .dropped (some .r) s) = takeover y s := by
      obtain ⟨rfl, hcw⟩ | ⟨rfl, hcw, htw⟩ := hy <;> simp [*]
    have h := takeover_passes hyr s
    rw [takenOver_eq hyr] at h
    have hfree : (takeover y s).bank y = Bank.empty := by
      cases y with
      | r => exact absurd rfl hyr
      | cw | tw => exact (h.banks _).free rfl
    have hreal : (takeover y s).banks.real.logical = { s.bank y with in3way := false, pend := takeoverPend y s }.logical := by
      cases y with
      | r => exact absurd rfl hyr
      | cw | tw => exact (h.banks .r).logical
    refine ⟨_, congrArg _ heq, h.line, hreal, hfree, fun z hzr hzy => (h.banks z).logical.trans ?_, ⟨h.tx, h.conf⟩,
      h.callFrame rfl rfl rfl rfl rfl rfl rfl, h.noError rfl rfl (by decide)⟩
    rw [State.bank, Banks.upd_get_other _ hzy]
    cases z with
    | r => exact absurd rfl hzr
    | cw | tw => rfl

/-- Settles O51: the silent functions of `hangupCw` and `hangupTw`. -/
theorem hangupOtherLeg : Obligations.HangupOtherLeg := by
  intro s hc
  simp only [exec_hostHangup_of_configured hc]
  refine ⟨fun ho => ?cw, fun ho hst => ?tw, fun ho hst => ?twDialing, fun leg x hleg h => congrArg _ (hostHangupBody_unowned hleg h),
    congrArg _ (withLeg_three _ s)⟩
  case cw =>
    have h := hangupCw_passes s
    have hfree := (h.banks .cw).free (by cases hk : s.tx.kind <;> simp [cwHungUp, hk, State.bank, Banks.get, Bank.empty])
    refine ⟨_, congrArg _ (hostHangupBody_cw ho), h.line.trans ?_, hfree.trans ?_, (h.banks .tw).logical.trans ?_,
      (h.banks .r).logical.trans ?_, fun hk => ⟨h.tx.trans ?_, h.conf.trans ?_⟩, fun hk => ⟨h.tx.trans ?_, h.conf.trans ?_⟩,
      h.callFrame ?_ ?_ ?_ ?_ ?_ ?_ ?_, h.noError ?_ ?_ (by decide)⟩
    all_goals by_cases hkind : s.tx.kind = .cwcid
    all_goals simp_all [cwHungUp, discarded, State.bank, Banks.get]
  case tw =>
    have h := hangupTw_passes s
    rw [twHungUp, if_neg hst] at h
    exact ⟨_, congrArg _ (hostHangupBody_tw ho), h.line, (h.banks .tw).free rfl, (h.banks .r).logical, (h.banks .cw).logical, h.tx,
      h.conf, h.callFrame rfl rfl rfl rfl rfl rfl rfl, h.noError rfl rfl (by decide)⟩
  case twDialing =>
    have h := hangupTw_passes s
    rw [twHungUp, if_pos hst] at h
    exact ⟨_, congrArg _ (hostHangupBody_tw ho), h.line, (h.banks .tw).free rfl, (h.banks .r).logical, (h.banks .cw).logical, h.tx,
      h.conf, h.callFrame rfl rfl rfl rfl rfl rfl rfl, h.noError rfl rfl (by decide)⟩

end Sys2Proof

end

/-! PROOFS. What says errors too, and `UP` (O49). -/

section

namespace Sys2Proof.Machine

variable {s t u : State} {i : Instr} {j k : Nat}

/-! ### Silent functions of operations that may raise errors -/

/-- `f` is the silent function `p`, but for what it says, errors among it. -/
structure Yields (p f : State → State) : Prop where
  silent : Silent p
  talk : ∀ s, Talk (p s) (f s)

theorem Acts.yields {p f : State → State} (h : Acts k p f) : Yields p f := ⟨h.silent, fun s => (h.spoken s).toTalk⟩

theorem Silent.yields {p : State → State} (h : Silent p) : Yields p p := ⟨h, fun _ => .refl _⟩

theorem Silent.mapTalk {p : State → State} (hp : Silent p) (h : Talk s t) : Talk (p s) (p t) := by
  have hsays : Says (s.env.answers.length + 1) s t := ⟨h, fun n hn => absurd hn.1 (by omega)⟩
  exact (hp.map hsays).toTalk

theorem Yields.then {p f q g : State → State} (h : Yields p f) (h' : Yields q g) :
    Yields (fun s => q (p s)) (fun s => g (f s)) where
  silent s e out answers drawn := by simp only [h.silent s, h'.silent (p s)]
  talk s := (h'.silent.mapTalk (h.talk s)).trans (h'.talk (f s))

theorem Yields.thenSilent {p f q : State → State} (h : Yields p f) (hq : Silent q) :
    Yields (fun s => q (p s)) (fun s => q (f s)) := h.then hq.yields

theorem Yields.onlyIf {c : State → Bool} {p f : State → State} (hc : Deaf c) (h : Yields p f) :
    Yields (onlyIf c p) (onlyIf c f) where
  silent s e out answers drawn := by
    simp only [Machine.onlyIf, hc s]
    split
    · exact h.silent s e out answers drawn
    · rfl
  talk s := onlyIf_cases (P := Talk (Machine.onlyIf c p s)) (fun hs => onlyIf_true (f := p) hs ▸ h.talk s)
    fun hs => (onlyIf_false (f := p) hs).symm ▸ .refl s

theorem Yields.of_eq {p q f : State → State} (h : Yields p f) (he : ∀ s, p s = q s) : Yields q f := by
  obtain rfl : p = q := funext he
  exact h

theorem raise_yields (e : ErrCode) : Yields id (raise e) := ⟨fun _ _ _ _ _ => rfl, raise_talk e⟩

/-! ### The receiver's end (R285) -/

/-- A receiver that has begun and not ended (R285). -/
def cidPending (st : CidRxState) : Bool := st == .settle || st == .decoding || st == .waitDring

/-- The receiver after `CIDRX_FINALIZE` (R285). -/
def finalizedRx (s : State) : CidRxRegs :=
  { s.rx with
    st := if cidPending s.rx.st then .fail else s.rx.st
    timeout := 0, resultSent := true, dringOn := false, dringDone := s.rx.dringOn || s.rx.dringDone
    ctx := if s.rx.dringOn then dringContext s.par s.cfg s.rx.gap else s.rx.ctx
    ngap := if s.rx.dringOn then 0 else s.rx.ngap
    gap := if s.rx.dringOn then #v[0, 0, 0] else s.rx.gap }

/-- The registers after `CIDRX_FINALIZE` (R285). -/
def finalized (s : State) : State := { s with rx := finalizedRx s }

theorem cidrxFail_yields (e : ErrCode) : Yields (State.updRx fun r => { r with st := .fail }) (cidrxFail e) :=
  (updRx_silent _).yields.then (raise_yields e)

theorem sendCidResult_yields : Yields (State.updRx fun r => { r with resultSent := true }) sendCidResult := by
  have h : Yields (fun s => (id s).updRx fun r => { r with resultSent := true }) sendCidResult :=
    { silent := fun _ _ _ _ _ => rfl, talk := fun s => (indicateLeg_talk .r _ s).updRx _ }
  exact h

theorem dringEval_silent : Silent dringEval := fun _ _ _ _ _ => rfl

theorem cidrxFinalize_yields : Yields finalized cidrxFinalize := by
  have h := ((((cidrxFail_yields .cidFail).onlyIf (c := fun s => cidPending s.rx.st) fun _ _ _ _ _ => rfl).then
    (dringEval_silent.yields.onlyIf (c := fun s => s.rx.dringOn) fun _ _ _ _ _ => rfl)).thenSilent
    (updRx_silent fun r => { r with timeout := 0 })).then
    (sendCidResult_yields.onlyIf (c := fun s => !s.rx.resultSent) fun _ _ _ _ _ => rfl)
  refine h.of_eq fun s => ?_
  cases hp : cidPending s.rx.st <;> cases hd : s.rx.dringOn <;> cases hr : s.rx.resultSent <;>
    simp [Machine.onlyIf, finalized, finalizedRx, dringEval, State.updRx, hp, hd, hr]

/-! ### `UP` (R390) -/

theorem exec_hostUp_of_configured (h : s.line.configured = true) (leg : BitVec 2) : exec (.hostUp leg) s = .next (hostUpBody leg s) :=
  congrArg Host.Outcome.next (hostEntry_configured h)

theorem hostUpBody_real (ho : s.banks.real.owned = true) : hostUpBody 0 s = upCase s := by
  have hno : ¬ (Leg.r ≠ .r || !s.banks.real.owned) = true := by simp [ho]
  exact (withLeg_of_legOf (x := .r) rfl _ s).trans (if_neg hno)

theorem hostUpBody_refused {leg : BitVec 2} {x : Leg} (hleg : legOf leg = some x) (h : x ≠ .r ∨ s.banks.real.owned = false) :
    hostUpBody leg s = raise .unexpected s := by
  have hyes : (x ≠ .r || !s.banks.real.owned) = true := by simpa using h
  exact (withLeg_of_legOf hleg _ s).trans (if_pos hyes)

theorem upCase_offered (hst : s.line.st = .offered) : upCase s = upOffered s := by rw [upCase, hst]

theorem upCase_threeWay (hst : s.line.st = .threeWayDialing) : upCase s = upThreeWay s := by rw [upCase, hst]

theorem upCase_refused (h : s.line.st ≠ .offered ∧ s.line.st ≠ .threeWayDialing) : upCase s = raise .unexpected s := by
  rw [upCase]
  cases hst : s.line.st <;> simp_all

theorem hostUpBody_answer (ho : s.banks.real.owned = true) (hst : s.line.st = .offered) (hdir : s.line.calldir = .inbound)
    (hoff : s.line.hook = false) : hostUpBody 0 s = upAnswer s := by
  rw [hostUpBody_real ho, upCase_offered hst, upOffered, hdir]
  exact if_neg (by simp [hoff])

/-- The registers after an answer: the receiver's end, off-hook, established (R390). -/
def answeredUp (s : State) : State := established ((finalized s).updLine fun l => { l with hook := true })

theorem upAnswer_accepted_frame (h : AcceptingNext s) :
    PassFrame (answeredUp s) (upAnswer s) := by
  have hbody := (((cidrxFinalize_yields.thenSilent (updLine_silent fun l => { l with hook := true })).then
    (goTo_acts .active).yields).thenSilent (updLine_silent fun l =>
      { l with answered := true, answerT := l.now, ringt := 0, ringing := false, curleg := some .r }))
  have hword : Talk s (spoke (lrWord (lineId s) (realH s) (.setHook .offHook)) s) := by
    rw [← asked_eq_spoke h]
    exact asked_talk _ s
  have htalk := (hbody.silent.mapTalk hword).trans (hbody.talk _)
  rw [upAnswer, lrRealCase_of_acceptingNext h]
  exact htalk.passFrame.trans (reconcilePass_frame _)

end Sys2Proof.Machine

namespace Sys2Proof

open Sys2Proof.Machine

/-- Settles O49: `UP` by the state of the line. -/
theorem upWord : Obligations.UpWord := by
  intro s hc
  simp only [exec_hostUp_of_configured hc]
  refine ⟨fun ho hst hdir hoff hacc => ?answer, fun ho hst hdir hoff href => ?refused, fun ho hst hwhere => ?establish,
    fun ho hst => ?threeWay, fun h => ?unexpected, congrArg _ (hostUpBody_refused (x := .cw) rfl (.inl (by decide))),
    congrArg _ (hostUpBody_refused (x := .tw) rfl (.inl (by decide))), congrArg _ (withLeg_three _ s)⟩
  case answer =>
    have h := upAnswer_accepted_frame hacc
    refine ⟨_, congrArg _ (hostUpBody_answer ho hst hdir hoff), h.line.trans ?_, congrArg CidRxRegs.resultSent h.rx,
      congrArg CidRxRegs.timeout h.rx, congrArg CidRxRegs.dringOn h.rx, h.banks, h.conf, h.tx, h.mwi, h.cfg, h.bytes, h.inputs.1, h.inputs.2⟩
    have hst' : ((finalized s).updLine fun l => { l with hook := true }).line.st = .offered := hst
    exact established_line_of_offered hst'
  case refused =>
    rw [hostUpBody_answer ho hst hdir hoff, upAnswer, lrRealCase_of_refusing href]
    rfl
  case establish =>
    have heq : hostUpBody 0 s = establish s := by
      rw [hostUpBody_real ho, upCase_offered hst, upOffered]
      obtain ⟨hdir, hoff⟩ | hdir := hwhere
      · rw [hdir]
        exact if_pos hoff
      · rw [hdir]
    have h := establish_passes s
    exact ⟨_, congrArg _ heq, h.line.trans (established_line_of_offered hst), fun x => (h.banks x).logical, h.conf, h.tx,
      h.callFrame rfl rfl rfl rfl rfl rfl rfl, h.noError rfl rfl (by decide)⟩
  case threeWay =>
    have h := ((goTo_acts .active).thenSilent (updLine_silent fun l => { l with curleg := some .r })).thenPass s
    have heq : hostUpBody 0 s = upThreeWay s := by rw [hostUpBody_real ho, upCase_threeWay hst]
    refine ⟨_, congrArg _ heq, h.line.trans ?_, fun x => (h.banks x).logical, h.conf, h.tx, h.callFrame rfl rfl rfl rfl rfl rfl rfl,
      h.noError rfl rfl (by decide)⟩
    simp [LineRegs.goneTo, hst]
  case unexpected =>
    refine congrArg _ ?_
    cases ho : s.banks.real.owned
    · exact hostUpBody_refused (x := .r) rfl (.inr ho)
    · rw [hostUpBody_real ho]
      obtain hno | hst | ⟨hst, hdir⟩ := h
      · exact absurd (ho.symm.trans hno) (by decide)
      · exact upCase_refused hst
      · rw [upCase_offered hst, upOffered, hdir]

end Sys2Proof

end

/-! PROOFS. The words of the conference bridge: `RECONCILE` (O44), `SLAVEADD` and `SLAVEDEL` (O46), the master and `INCONF` (O47). -/

section

namespace Sys2Proof.Machine

variable {s t u : State} {i : Instr} {j k : Nat}

/-! ### A pass whose commands are accepted -/

theorem refusedOf_of_accepted (cs : List ActionWord) {as : List Config.Answer} (h : ∀ a ∈ as, a = .ok) : refusedOf cs as = [] := by
  induction cs generalizing as with
  | nil => rfl
  | cons c cs ih =>
    cases as with
    | nil => rfl
    | cons a as =>
      obtain rfl := h a (by simp)
      exact (refusedOf_cons_ok c cs as).trans (ih fun b hb => h b (by simp [hb]))

/-- After an accepted pass no command is due. -/
theorem due_reconcilePass_of_accepts (h : Accepts 7 s) {m : Member} (hm : m ∈ passMembers) : m.due (reconcilePass s) = false := by
  have hnone : dueCommands passMembers (reconcilePass s) = [] := by
    rw [dueCommands_reconcilePass h.1]
    exact refusedOf_of_accepted _ h.2
  have hfilter : passMembers.filter (·.due (reconcilePass s)) = [] := List.map_eq_nil_iff.mp hnone
  exact Bool.eq_false_iff.mpr (List.filter_eq_nil_iff.mp hfilter m hm)

theorem Member.shadow_eq_of_not_due {m : Member} (h : m.due s = false) (hp : m.present s = true) : m.shadow s = m.desired s := by
  rw [Member.due, hp, Bool.true_and, bne_eq_false_iff_eq] at h
  exact h.symm

theorem slave_mem_passMembers (i : Fin Config.slaveSlots) : Member.slave i ∈ passMembers := by
  match i with
  | 0 | 1 | 2 | 3 => simp [passMembers]

theorem reconciled_of_not_due (h : ∀ m ∈ passMembers, m.due t = false) : Reconciled t where
  legs x hx := Member.shadow_eq_of_not_due (m := .leg x) (h _ (by cases x <;> simp [passMembers])) hx
  slaves i hi hslot :=
    Member.shadow_eq_of_not_due (m := .slave ⟨i, hslot⟩) (h _ (slave_mem_passMembers ⟨i, hslot⟩)) (decide_eq_true hi)

theorem reconciled_of_accepts (h : Accepts 7 s) : Reconciled (reconcilePass s) :=
  reconciled_of_not_due fun _ hm => due_reconcilePass_of_accepts h hm

theorem Reconciled.leg (h : Reconciled t) (hframe : PassFrame s t) {x : Leg} (hx : (s.bank x).alloc = true) :
    (t.bank x).cur = desiredLeg x s := (h.legs x ((hframe.alloc x).trans hx)).trans (hframe.desiredLeg x)

theorem Reconciled.real (h : Reconciled t) (hframe : PassFrame s t) (hx : s.banks.real.alloc = true) :
    t.banks.real.cur = desiredReal s := h.leg hframe (x := .r) hx

theorem Reconciled.slave (h : Reconciled t) (hframe : PassFrame s t) {i : Nat} (hi : i < s.conf.nslaves.toNat)
    (hslot : i < Config.slaveSlots) : (slaveAt i t).cur = desiredSlave s :=
  (h.slaves i (by rw [hframe.nslaves]; exact hi) hslot).trans hframe.desiredSlave

/-- After an operation whose commands were accepted, an accepted pass. -/
theorem Acts.reconciled {p f : State → State} (h : Acts k p f) (hans : (p s).env.answers = s.env.answers) (hk : k + 7 ≤ 64)
    (hs : Accepting s) : Reconciled (reconcilePass (f s)) := by
  have hacc : Accepts (7 + k) (p s) := by
    rw [Accepts, hans]
    exact hs.accepts.mono (by omega)
  exact reconciled_of_accepts ((h.spoken s).smooth 7 hacc).2

theorem reconcilePass_confno (s : State) :
    (reconcilePass s).conf.confnoV = (updateConfno s).conf.confnoV ∧ (reconcilePass s).conf.confno = (updateConfno s).conf.confno := by
  rw [reconcilePass_eq]
  exact reconcileAll_confno _ _

/-! ### The predicates of R221 as propositions -/

theorem any3_iff : any3 s = true ↔ ∃ x : Leg, (s.bank x).alloc = true ∧ (s.bank x).in3way = true := by
  simp only [any3, legIn3way, Bool.or_eq_true, Bool.and_eq_true]
  constructor
  · rintro ((h | h) | h)
    exacts [⟨_, h⟩, ⟨_, h⟩, ⟨_, h⟩]
  · rintro ⟨x, h⟩
    cases x with
    | r => exact .inl (.inl h)
    | cw => exact .inl (.inr h)
    | tw => exact .inr h

theorem isOwn_iff : isOwn s = true ↔ any3 s = true ∨ s.conf.nslaves ≠ 0 ∨ s.conf.inconf = true := by
  have hne : (1#3 ≤ s.conf.nslaves) ↔ s.conf.nslaves ≠ 0 := by bv_omega
  simp [isOwn, or_assoc, hne]

theorem isNative_iff : isNative s = true ↔ ¬ any3 s = true ∧ s.conf.nslaves = 1 ∧ s.conf.slaves[0].law = cfgLaw s.cfg := by
  have hslave : slaveAt 0 s = s.conf.slaves[0] := rfl
  simp [isNative, hslave, and_assoc]

theorem updateConfno_software (hown : isOwn s = true) (hnat : isNative s = false) :
    (updateConfno s).conf.confnoV = true ∧ (updateConfno s).conf.confno = lineId s := by
  rw [updateConfno, if_pos (by simp [hown, hnat])]
  exact ⟨rfl, rfl⟩

theorem updateConfno_unneeded (hown : isOwn s = false) (hm : s.conf.masterV = false) :
    (updateConfno s).conf.confnoV = false ∧ (updateConfno s).conf.confno = 0 := by
  rw [updateConfno, if_neg (by simp [hown]), if_pos (by simp [isNeeded, hown, hm])]
  exact ⟨rfl, rfl⟩

theorem isOwn_of_native (h : isNative s = true) : isOwn s = true := by
  obtain ⟨-, hn, -⟩ := isNative_iff.mp h
  exact isOwn_iff.mpr (.inr (.inl (by simp [hn])))

theorem updateConfno_kept (h : isNative s = true ∨ isOwn s = false ∧ s.conf.masterV = true) : updateConfno s = s := by
  obtain hnat | ⟨hown, hm⟩ := h
  · rw [updateConfno, if_neg (by simp [hnat]), if_neg (by simp [isNeeded, isOwn_of_native hnat])]
  · rw [updateConfno, if_neg (by simp [hown]), if_neg (by simp [isNeeded, hm])]

/-! ### What Real desires (R224) -/

theorem desiredReal_suspended (h : s.conf.confSusp = true) : desiredReal s = descNone := by simp [desiredReal, h]

theorem desiredReal_native (hs : s.conf.confSusp = false) (hv : s.conf.masterV = true) (hn : s.conf.masterNative = true) :
    desiredReal s = descMonitor s.conf.masterId := by simp [desiredReal, hs, hv, hn]

theorem desiredReal_confno (hs : s.conf.confSusp = false) (hv : s.conf.masterV = true) (hn : s.conf.masterNative = false)
    (hc : s.conf.masterConfnoV = true) : desiredReal s = descConf s.conf.masterConfno := by simp [desiredReal, hs, hv, hn, hc]

theorem desiredReal_own (hs : s.conf.confSusp = false)
    (h : s.conf.masterV = false ∨ s.conf.masterNative = false ∧ s.conf.masterConfnoV = false) : desiredReal s = desiredRealOwn s := by
  obtain h | ⟨hn, hc⟩ := h
  · simp [desiredReal, hs, h]
  · simp [desiredReal, hs, hn, hc]

theorem desiredRealOwn_software (ho : isOwn s = true) (hn : isNative s = false) : desiredRealOwn s = descConf (lineId s) := by
  simp [desiredRealOwn, ho, hn, ownSlot]

theorem desiredRealOwn_native (hn : isNative s = true) : desiredRealOwn s = descMonitor s.conf.slaves[0].id := if_pos hn

theorem isNative_of_not_own (h : isOwn s = false) : isNative s = false :=
  Bool.eq_false_iff.mpr fun hn => absurd ((isOwn_of_native hn).symm.trans h) (by decide)

theorem desiredRealOwn_none (ho : isOwn s = false) : desiredRealOwn s = descNone := by
  simp [desiredRealOwn, ho, isNative_of_not_own ho]

/-! ### What the other members desire (R223) -/

theorem desiredLeg_of_ne {x : Leg} (h : x ≠ .r) :
    desiredLeg x s = if isOwn s && !isNative s && legIn3way x s then ownSlot s else descNone := by
  cases x with
  | r => exact absurd rfl h
  | cw | tw => rfl

theorem desiredLeg_software {x : Leg} (hx : x ≠ .r) (ho : isOwn s = true) (hn : isNative s = false)
    (h : (s.bank x).alloc = true) (h3 : (s.bank x).in3way = true) : desiredLeg x s = descConf (lineId s) := by
  simp [desiredLeg_of_ne hx, ho, hn, legIn3way, h, h3, ownSlot]

theorem desiredLeg_none {x : Leg} (hx : x ≠ .r) (h : isNative s = true ∨ isOwn s = false ∨ (s.bank x).in3way = false) :
    desiredLeg x s = descNone := by
  rw [desiredLeg_of_ne hx]
  obtain h | h | h := h <;> simp [h, legIn3way]

/-! ### The words -/

/-- A word that writes conference registers and reconciles. -/
structure Topology (c : ConfRegs) (s t : State) : Prop where
  conf : t.conf.logical = c.logical
  banks : SameBanks s t
  line : t.line = s.line
  tx : t.tx = s.tx
  frame : CallFrame s t
  accepted : Accepting s → Reconciled t ∧ NoError s t

theorem Passes.topology {f : ConfRegs → ConfRegs} (h : Passes k (s.updConf f) t) (hk : k ≤ 64) (hrec : Accepting s → Reconciled t) :
    Topology (f s.conf) s t where
  conf := h.conf
  banks x := (h.banks x).logical
  line := h.line
  tx := h.tx
  frame := h.callFrame rfl rfl rfl rfl rfl rfl rfl
  accepted hs := ⟨hrec hs, h.noError rfl rfl hk hs⟩

theorem Acts.topology {f : ConfRegs → ConfRegs} {g : State → State} (hacts : Acts k (State.updConf f) g) (hk : k + 7 ≤ 64) (s : State) :
    Topology (f s.conf) s (reconcilePass (g s)) := (hacts.thenPass s).topology hk (hacts.reconciled rfl hk)

theorem updConf_topology (f : ConfRegs → ConfRegs) (s : State) : Topology (f s.conf) s (reconcilePass (s.updConf f)) :=
  (updConf_silent f).acts.topology (by decide) s

theorem exec_hostMasterset_of_configured (h : s.line.configured = true) (line : Byte) (valid native : Bool) (confno : Byte) :
    exec (.hostMasterset line valid native confno) s = .next (hostMastersetBody line valid native confno s) :=
  congrArg Host.Outcome.next (hostEntry_configured h)

theorem exec_hostMasterclr_of_configured (h : s.line.configured = true) : exec .hostMasterclr s = .next (hostMasterclrBody s) :=
  congrArg Host.Outcome.next (hostEntry_configured h)

theorem exec_hostInconf_of_configured (h : s.line.configured = true) (b : Bool) :
    exec (.hostInconf b) s = .next (hostInconfBody b s) := congrArg Host.Outcome.next (hostEntry_configured h)

theorem exec_hostSlaveadd_of_configured (h : s.line.configured = true) (line : Byte) (law : Bool) :
    exec (.hostSlaveadd line law) s = .next (hostSlaveaddBody line law s) := congrArg Host.Outcome.next (hostEntry_configured h)

theorem exec_hostSlavedel_of_configured (h : s.line.configured = true) (line : Byte) :
    exec (.hostSlavedel line) s = .next (hostSlavedelBody line s) := congrArg Host.Outcome.next (hostEntry_configured h)

/-- `MASTERSET` writes the five master registers (R232). -/
def withMaster (line : Byte) (valid native : Bool) (confno : Byte) (c : ConfRegs) : ConfRegs :=
  { c with masterV := true, masterId := line, masterNative := native, masterConfnoV := valid, masterConfno := confno }

theorem hostMastersetBody_self {line : Byte} (h : line = lineId s) (valid native : Bool) (confno : Byte) :
    hostMastersetBody line valid native confno s = raise .badArg s := if_pos h

theorem hostMastersetBody_other {line : Byte} (h : line ≠ lineId s) (valid native : Bool) (confno : Byte) :
    hostMastersetBody line valid native confno s = reconcilePass (s.updConf (withMaster line valid native confno)) := if_neg h

/-! ### The list of slaves -/

/-- Entry `i` is the first one in use with this Line number (R230). -/
def FirstSlave (line : Byte) (s : State) (i : Nat) : Prop :=
  (i < 4 ∧ i < s.conf.nslaves.toNat ∧ (slaveAt i s).id = line) ∧
    ∀ j < i, ¬ (j < 4 ∧ j < s.conf.nslaves.toNat ∧ (slaveAt j s).id = line)

theorem slaveIndex_of_first {line : Byte} {i : Nat} (h : FirstSlave line s i) : slaveIndex line s = some i := by
  obtain ⟨⟨hslot, hn, hid⟩, hbefore⟩ := h
  refine List.find?_range_eq_some.mpr ⟨by simp [hn, hid], List.mem_range.mpr hslot, fun j hj => ?_⟩
  have hno := hbefore j hj
  simp only [not_and] at hno
  by_cases hjn : j < s.conf.nslaves.toNat
  · simpa [hjn] using hno (hj.trans hslot) hjn
  · simp [hjn]

theorem slaveIndex_of_unlisted {line : Byte} (h : ∀ i, ¬ (i < 4 ∧ i < s.conf.nslaves.toNat ∧ (slaveAt i s).id = line)) :
    slaveIndex line s = none := by
  refine List.find?_eq_none.mpr fun i hi hyes => h i ⟨List.mem_range.mp hi, ?_⟩
  simpa using hyes

theorem slaveAt_of_lt {i : Nat} (h : i < 4) : slaveAt i s = s.conf.slaves[i] := by
  simp [slaveAt, h]

theorem hostSlaveaddBody_self {line : Byte} (h : line = lineId s) (law : Bool) : hostSlaveaddBody line law s = raise .badArg s :=
  if_pos h

theorem hostSlaveaddBody_full {line : Byte} (h : line ≠ lineId s) (hno : slaveIndex line s = none)
    (hfull : s.par.nSlaves ≤ s.conf.nslaves.toNat) (law : Bool) : hostSlaveaddBody line law s = raise .slaveFull s := by
  rw [hostSlaveaddBody, if_neg h, hno]
  exact if_pos hfull

/-- The list with a new slave at its end (R230). -/
def withNewSlave (line : Byte) (law : Bool) (c : ConfRegs) : ConfRegs :=
  { c with
    nslaves := c.nslaves + 1
    slaves := Vector.ofFn fun j =>
      if j.val = c.nslaves.toNat then { id := line, law := lawOf law, cur := descNone } else c.slaves[j] }

/-- The list with the law of one slave changed (R230). -/
def withSlaveLaw (i : Nat) (law : Bool) (c : ConfRegs) : ConfRegs :=
  { c with slaves := Vector.ofFn fun j => if j.val = i then { c.slaves[j] with law := lawOf law } else c.slaves[j] }

theorem setIfInBounds_eq_ofFn (v : Vector Slave Config.slaveSlots) (i : Nat) (x : Slave) :
    v.setIfInBounds i x = Vector.ofFn fun j => if j.val = i then x else v[j] := by
  refine Vector.ext fun j hj => ?_
  simp [Vector.getElem_setIfInBounds, eq_comm]

theorem hostSlaveaddBody_new {line : Byte} (h : line ≠ lineId s) (hno : slaveIndex line s = none)
    (hroom : s.conf.nslaves.toNat < s.par.nSlaves) (law : Bool) :
    hostSlaveaddBody line law s = reconcilePass (s.updConf (withNewSlave line law)) := by
  rw [hostSlaveaddBody, if_neg h, hno]
  refine (if_neg (Nat.not_le.mpr hroom)).trans (congrArg reconcilePass ?_)
  simp only [State.updConf, withNewSlave, setIfInBounds_eq_ofFn]

theorem hostSlaveaddBody_listed {line : Byte} (h : line ≠ lineId s) {i : Nat} (hi : slaveIndex line s = some i) (hslot : i < 4)
    (law : Bool) : hostSlaveaddBody line law s = reconcilePass (s.updConf (withSlaveLaw i law)) := by
  rw [hostSlaveaddBody, if_neg h, hi]
  refine congrArg reconcilePass ?_
  have hlist : s.conf.slaves.setIfInBounds i { slaveAt i s with law := lawOf law } = (withSlaveLaw i law s.conf).slaves := by
    refine Vector.ext fun j hj => ?_
    by_cases hij : j = i
    · subst hij
      simp [withSlaveLaw, slaveAt_of_lt hslot]
    · simp [withSlaveLaw, hij, Ne.symm hij]
  rw [State.updConf, State.updConf, hlist]
  rfl

/-- The list without one of its slaves (R231). -/
def withoutSlave (i : Nat) (c : ConfRegs) : ConfRegs :=
  { c with
    nslaves := c.nslaves - 1
    slaves := Vector.ofFn fun j =>
      if j.val < i ∨ c.nslaves.toNat ≤ j.val then c.slaves[j]
      else if j.val + 1 = c.nslaves.toNat then { id := 0, law := .mu, cur := descNone }
      else c.slaves[j.val + 1]?.getD Slave.empty }

theorem removeSlave_eq (i : Nat) (c : ConfRegs) : removeSlave i c.nslaves.toNat c.slaves = (withoutSlave i c).slaves := by
  refine Vector.ext fun j hj => ?_
  simp only [removeSlave, withoutSlave, Vector.getElem_ofFn]
  by_cases hji : j < i
  · rw [if_pos hji, if_pos (.inl hji)]
  rw [if_neg hji]
  rcases Nat.lt_trichotomy (j + 1) c.nslaves.toNat with hlt | heq | hgt
  · rw [if_pos hlt, if_neg (by omega), if_neg (by omega)]
  · rw [if_neg (by omega), if_pos heq, if_neg (by omega), if_pos heq]
    rfl
  · rw [if_neg (by omega), if_neg (by omega), if_pos (by omega)]

theorem hostSlavedelBody_unknown {line : Byte} (h : slaveIndex line s = none) : hostSlavedelBody line s = raise .unexpected s := by
  rw [hostSlavedelBody, h]

/-- A listed slave leaves its conference, then the list (R231). -/
def leaveSlave (i : Nat) (s : State) : State :=
  onlyIf (fun s => (slaveAt i s).cur != descNone) (lrTry (slaveAt i s).id hAny (.setConf descNone)) s

theorem lrTry_asked (line : Byte) (h : BitVec 4) (c : LrCmd) (s : State) :
    (asked (lrWord line h c) s).env.out <+: (lrTry line h c s).env.out :=
  lrCase_cases (P := fun t => (asked (lrWord line h c) s).env.out <+: t.env.out) (List.prefix_refl _) (raise_talk _ _).out

theorem leaveSlave_acts (i : Nat) : Acts 1 id (leaveSlave i) :=
  acts_of_says fun s => onlyIf_cases (P := Says 1 s) (fun _ => lrTry_says _ _ _ s) fun _ => (Says.refl s).mono (by omega)

theorem hostSlavedelBody_listed {line : Byte} {i : Nat} (h : slaveIndex line s = some i) :
    hostSlavedelBody line s = reconcilePass ((leaveSlave i s).updConf (withoutSlave i)) := by
  rw [hostSlavedelBody, h]
  have hlist (u : State) : (u.updConf fun c => { c with slaves := removeSlave i c.nslaves.toNat c.slaves, nslaves := c.nslaves - 1 }) =
      u.updConf (withoutSlave i) := by
    rw [State.updConf, removeSlave_eq]
    rfl
  exact congrArg reconcilePass (hlist (leaveSlave i s))

end Sys2Proof.Machine

namespace Sys2Proof

open Sys2Proof.Machine

/-- Settles O44: the shadows are what `reconciled_of_accepts` gives, by the cases of `D` and `DS`. -/
theorem reconcileWord : Obligations.ReconcileWord := by
  intro s hc three own native
  have hthree : three ↔ any3 s = true := any3_iff.symm
  have hown : own ↔ isOwn s = true := (or_congr_left hthree).trans isOwn_iff.symm
  have hnative : native ↔ isNative s = true := (and_congr_left' (not_congr hthree)).trans isNative_iff.symm
  have hframe := reconcilePass_frame s
  have hno : ∀ v n, (updateConfno s).conf.confnoV = v ∧ (updateConfno s).conf.confno = n →
      (reconcilePass s).conf.confnoV = v ∧ (reconcilePass s).conf.confno = n := by
    obtain ⟨hv, hn⟩ := reconcilePass_confno s
    rw [hv, hn]
    exact fun _ _ h => h
  rw [hown, hnative, Bool.not_eq_true, Bool.not_eq_true]
  refine ⟨_, exec_hostReconcile_of_configured hc, hframe, fun ho hna => hno _ _ (updateConfno_software ho hna),
    fun ho hm => hno _ _ (updateConfno_unneeded ho hm), fun h => hno _ _ (by rw [updateConfno_kept h]; exact ⟨rfl, rfl⟩), fun hs => ?_⟩
  have hrec : Reconciled (reconcilePass s) := reconciled_of_accepts (hs.accepts.mono (by decide))
  have hquiet : NoError s (reconcilePass s) := (reconcilePass_passes s).noError rfl rfl (by decide) hs
  generalize reconcilePass s = t at hframe hrec hquiet
  refine ⟨hrec, hquiet, fun hr => ?real, fun x hxr hx => ?others, fun i hi => ?slaves⟩
  case real =>
    rw [hrec.real hframe hr]
    refine ⟨desiredReal_suspended, desiredReal_native, desiredReal_confno, fun hsusp hm => ?_⟩
    rw [desiredReal_own hsusp hm]
    exact ⟨desiredRealOwn_software, desiredRealOwn_native, desiredRealOwn_none⟩
  case others =>
    rw [hrec.leg hframe hx]
    exact ⟨fun ho hn h3 => desiredLeg_software hxr ho hn hx h3, desiredLeg_none hxr⟩
  case slaves =>
    have hcur := hrec.slave hframe hi i.isLt
    rw [slaveAt_of_lt i.isLt] at hcur
    rw [show t.conf.slaves[i].cur = desiredSlave s from hcur, desiredSlave]
    exact ⟨fun hn => if_pos hn, fun hn => if_neg (by simp [hn])⟩

/-- Settles O46: `SLAVEADD` and `SLAVEDEL` by the index of the slave. -/
theorem slaveWords : Obligations.SlaveWords := by
  intro s line law hc n listedAt first afterPass
  have hafter (c : ConfRegs) (t : State) (h : Topology c s t) : afterPass c t :=
    ⟨h.conf, h.banks, h.line, h.tx, h.frame, h.accepted⟩
  rw [exec_hostSlaveadd_of_configured hc, exec_hostSlavedel_of_configured hc]
  refine ⟨fun hl => congrArg _ (hostSlaveaddBody_self hl law),
    fun hl hno hfull => congrArg _ (hostSlaveaddBody_full hl (slaveIndex_of_unlisted hno) hfull law),
    fun hl hno hn hpar => ?append, fun i hl hi => ?newLaw,
    fun hno => congrArg _ (hostSlavedelBody_unknown (slaveIndex_of_unlisted hno)), fun i hi => ?remove⟩
  case append =>
    have h := updConf_topology (withNewSlave line law) s
    have hn4 : n < 4 := hn.trans_le hpar
    have hframe := reconcilePass_frame (s.updConf (withNewSlave line law))
    have hslave : slaveAt n (s.updConf (withNewSlave line law)) = { id := line, law := lawOf law, cur := descNone } := by
      rw [slaveAt_of_lt hn4]
      simp [withNewSlave, n]
    rw [hostSlaveaddBody_new hl (slaveIndex_of_unlisted hno) hn law]
    refine ⟨_, rfl, hafter _ _ h, ?_, (hframe.slaveId n).trans (by rw [hslave]), (hframe.slaveLaw n).trans (by rw [hslave])⟩
    rw [hframe.nslaves]
    have hadd : (s.conf.nslaves + 1).toNat = n + 1 := by bv_omega
    exact hadd
  case newLaw =>
    have h := updConf_topology (withSlaveLaw i law) s
    rw [hostSlaveaddBody_listed hl (slaveIndex_of_first hi) hi.1.1]
    exact ⟨_, rfl, hafter _ _ h⟩
  case remove =>
    have h := ((leaveSlave_acts i).thenSilent (updConf_silent (withoutSlave i))).topology (by decide) s
    rw [hostSlavedelBody_listed (slaveIndex_of_first hi)]
    refine ⟨_, rfl, hafter _ _ h, fun hcur => newWords_head? (asked_out _ s) ?_⟩
    have hid : (slaveAt i s).id = line := hi.1.2.2
    have hpass := reconcilePass_passes ((leaveSlave i s).updConf (withoutSlave i))
    refine List.IsPrefix.trans ?_ hpass.out
    rw [leaveSlave, onlyIf_true (by simpa using hcur), hid]
    exact lrTry_asked line hAny _ s

/-- Settles O47: each word is its write and a pass. -/
theorem masterAndInconfWords : Obligations.MasterAndInconfWords := by
  intro s line confno valid native b hc
  rw [exec_hostMasterset_of_configured hc, exec_hostMasterclr_of_configured hc, exec_hostInconf_of_configured hc]
  refine ⟨fun hl => congrArg _ (hostMastersetBody_self hl valid native confno), fun hl => ?set, ?clr, ?inconf⟩
  case set =>
    have h := updConf_topology (withMaster line valid native confno) s
    rw [hostMastersetBody_other hl]
    refine ⟨_, rfl, h.conf, h.banks, h.line, h.tx, h.frame, fun hs => ?_⟩
    obtain ⟨hrec, hno⟩ := h.accepted hs
    have hreal := hrec.real (reconcilePass_frame _)
    refine ⟨hrec, hno, fun hr hsusp hnat => (hreal hr).trans ?_, fun hr hsusp hnat hv => (hreal hr).trans ?_⟩
    · exact desiredReal_native hsusp rfl hnat
    · exact desiredReal_confno hsusp rfl hnat hv
  case clr =>
    have h := updConf_topology (fun c : ConfRegs =>
      { c with masterV := false, masterId := 0, masterNative := false, masterConfnoV := false, masterConfno := 0 }) s
    rw [hostMasterclrBody]
    exact ⟨_, rfl, h.conf, h.banks, h.line, h.tx, h.frame, h.accepted⟩
  case inconf =>
    have h := updConf_topology (fun c : ConfRegs => { c with inconf := b }) s
    rw [hostInconfBody]
    exact ⟨_, rfl, h.conf, h.banks, h.line, h.tx, h.frame, h.accepted⟩

end Sys2Proof

end

/-! PROOFS. The outbound spill: `RINGOFF` (O31), `CALL` (O48), `CWOFFER` (O52). -/

section

namespace Sys2Proof.Machine

variable {s t u : State} {i : Instr} {j k : Nat}

/-! ### Starting a spill (R256, R237) -/

/-- The registers after `CONF_SUSPEND` (R237). -/
def suspended (s : State) : State :=
  { s with conf := if s.conf.confSusp then s.conf else { s.conf with saveconf := s.banks.real.cur, confSusp := true } }

theorem confSuspend_cases (s : State) :
    s.conf.confSusp = true ∧ confSuspend s = s ∨
    s.conf.confSusp = false ∧
      confSuspend s = reconcilePass (s.updConf fun c => { c with saveconf := s.banks.real.cur, confSusp := true }) := by
  cases hsusp : s.conf.confSusp
  · exact .inr ⟨rfl, onlyIf_true (by simp [hsusp])⟩
  · exact .inl ⟨rfl, onlyIf_false (by simp [hsusp])⟩

theorem suspend_silent : Silent fun s => s.updConf fun c => { c with saveconf := s.banks.real.cur, confSusp := true } :=
  fun _ _ _ _ _ => rfl

/-- An operation and `CONF_SUSPEND` after it. -/
theorem Acts.thenSuspend {p f : State → State} (h : Acts k p f) (s : State) :
    Passes (k + 7) (suspended (p s)) (confSuspend (f s)) := by
  have hconf : (f s).conf = (p s).conf := (h.spoken s).conf
  obtain ⟨hsusp, heq⟩ | ⟨hsusp, heq⟩ := confSuspend_cases (f s)
  · rw [heq, suspended, if_pos (hconf ▸ hsusp)]
    exact (h.spoken s).passes.mono (by omega)
  · rw [heq, suspended, if_neg (by rw [← hconf, hsusp]; exact Bool.false_ne_true)]
    exact (h.thenSilent suspend_silent).thenPass s

/-- The registers after `SPILL_START` (R256). -/
def begun (s : State) : State :=
  suspended { s with
    tx := { s.tx with go := true, linSaved := s.banks.real.linear }
    banks := { s.banks with real := { s.banks.real with linear := false } } }

/-- An operation and `SPILL_START` after it. -/
theorem Acts.thenSpillStart {p f : State → State} (h : Acts k p f) (s : State) :
    Passes (k + 8) (begun (p s)) (spillStart (f s)) := by
  have hgo : Silent fun s => s.updTx fun t => { t with go := true, linSaved := s.banks.real.linear } := fun _ _ _ _ _ => rfl
  exact ((h.thenSilent hgo).then clearLinear_acts).thenSuspend s

theorem spillStart_passes (s : State) : Passes 8 (begun s) (spillStart s) := (acts_of_says (k := 0) Says.refl).thenSpillStart s

theorem suspended_conf_of_running (h : s.conf.confSusp = false) :
    (suspended s).conf = { s.conf with saveconf := s.banks.real.cur, confSusp := true } := if_neg (by simp [h])

theorem suspended_confSusp (s : State) : (suspended s).conf.confSusp = true := by
  cases h : s.conf.confSusp <;> simp [suspended, h]

theorem suspended_conf_eq (s : State) :
    (suspended s).conf = { s.conf with confSusp := (suspended s).conf.confSusp, saveconf := (suspended s).conf.saveconf } := by
  have hkept (h : s.conf.confSusp = true) : (suspended s).conf = s.conf := if_pos h
  cases h : s.conf.confSusp
  · rw [suspended_conf_of_running h]
  · rw [hkept h]

/-! ### Loading a spill (R251) -/

theorem cidSamples_congr (hpar : t.par = s.par) (hcfg : t.cfg = s.cfg) (hmem : t.mem = s.mem) (kind : SpillKind) :
    cidSamples kind t = cidSamples kind s := by
  have hfield (a max : Nat) : cidField a max t = cidField a max s := by simp only [cidField, rdList, rd, hmem]
  have hpay : cidPayload kind t = cidPayload kind s := by
    simp only [cidPayload, cidNumber, cidName, hfield, hpar, hcfg]
    cases cidSigOf s.cfg <;> rw [hpar]
  cases kind <;> simp only [cidSamples, hpay, hcfg, hpar]

/-- The registers after `CID_GENERATE` (R251): the old spill is discarded, the samples stand in `SPILL`. -/
def generated (kind : SpillKind) (s : State) : State := loadSpill kind (cidSamples kind s) (discarded s)

theorem generated_silent (kind : SpillKind) : Silent fun s => loadSpill kind (cidSamples kind s) s := by
  intro s e out answers drawn
  have hsamples : cidSamples kind (State.heard e out answers drawn s) = cidSamples kind s := cidSamples_congr rfl rfl rfl kind
  simp only [hsamples]
  rfl

theorem cidGenerate_acts (kind : SpillKind) : Acts 1 (generated kind) (cidGenerate kind) :=
  (spillDiscard_acts.thenSilent (generated_silent kind)).of_eq fun s => by
    rw [cidSamples_congr (s := s) (t := discarded s) rfl rfl rfl, generated]

/-- The bytes of a spill in the memory of another state. -/
structure Loaded (samples : List Byte) (s t : State) : Prop where
  bytes : ∀ k, (h : k < samples.length) → rd .spill k t = samples[k]
  others : SameBytesBut .spill 0 samples.length s t

theorem loaded_of_mem {samples : List Byte} (hlen : samples.length ≤ 65536) (hmem : t.mem = (wr .spill 0 samples s).mem) :
    Loaded samples s t where
  bytes a ha := by
    have hrd := rd_wr .spill .spill 0 a samples s (by omega) (by omega)
    rw [dif_pos ⟨rfl, by omega, by omega⟩] at hrd
    simp only [rd, hmem] at hrd ⊢
    exact hrd
  others sp a ha hno := by
    have hrd := rd_wr .spill sp 0 a samples s (by omega) ha
    rw [dif_neg (by simpa using hno)] at hrd
    simp only [rd, hmem] at hrd ⊢
    exact hrd

theorem length_le_of_le_spillBytes {p : Config.Params} (hp : p.ok) {n : Nat} (h : n ≤ p.spillBytes) : n ≤ 65536 := by
  have hmod := toNat_ofNat_of_le_spillBytes hp h
  have hlt := (BitVec.ofNat 16 n).isLt
  omega

/-! ### `RINGOFF` (R152) -/

theorem ringoffBody_alert (h : s.mwi.st = .alertWait) : ringoffBody s = mwiRingOff s := if_pos (by simp [h])

theorem ringoffBody_spill (h : s.mwi.st ≠ .alertWait)
    (hs : s.line.st = .offered ∧ s.line.calldir = .outRing ∧ s.tx.kind = .cid ∧ s.tx.go = false) : ringoffBody s = spillStart s := by
  obtain ⟨hst, hdir, hkind, hgo⟩ := hs
  rw [ringoffBody, if_neg (by simp [h])]
  exact if_pos (by simp [hst, hdir, hkind, hgo])

theorem ringoffBody_nothing (h : s.mwi.st ≠ .alertWait)
    (hs : ¬ (s.line.st = .offered ∧ s.line.calldir = .outRing ∧ s.tx.kind = .cid ∧ s.tx.go = false)) : ringoffBody s = s := by
  rw [ringoffBody, if_neg (by simp [h])]
  exact if_neg (by simpa [and_assoc] using hs)

/-- `RINGOFF` in the alert of a message indication (R345). -/
def alertRung (s : State) : State :=
  s.updMwi fun m => { m with st := .pause, deadline := s.line.now + BitVec.ofNat 32 s.par.mwiPauseMs }

theorem mwiRingOff_says (s : State) : Says 1 (alertRung s) (mwiRingOff s) := by
  have h : Says 1 s (lrReal (.setHook .ringOff) s) := lrTry_says _ _ _ s
  exact (updMwi_silent fun m => { m with st := .pause, deadline := s.line.now + BitVec.ofNat 32 s.par.mwiPauseMs }).map h

theorem lrReal_head (c : LrCmd) (s : State) (h : (lrReal c s).env.out <+: t.env.out) :
    (newWords s t).head? = some (lrWord (lineId s) (realH s) c) :=
  newWords_head? (asked_out _ s) ((lrTry_asked _ _ _ s).trans h)

/-! ### `CALL` (R388) -/

theorem exec_hostCall_of_configured (h : s.line.configured = true) (mode : Bool) (n tag : Byte) :
    exec (.hostCall mode n tag) s = .next (hostCallBody mode n tag s) := congrArg Host.Outcome.next (hostEntry_configured h)

theorem hostCallBody_refused {mode : Bool} {n : Byte}
    (h : s.line.st ≠ .idle ∨ s.line.inalarm = true ∨ (mode = true ∧ s.par.dialMax < n.toNat)) (tag : Byte) :
    hostCallBody mode n tag s = refuseCall .refused tag s := if_pos (by simpa [or_assoc] using h)

/-- A call the line takes up (R388). -/
structure CallFree (mode : Bool) (n : Byte) (s : State) : Prop where
  idle : s.line.st = .idle
  noAlarm : s.line.inalarm = false
  fits : mode = true → n.toNat ≤ s.par.dialMax
  quiet : s.mwi.st.isActive = false

theorem hostCallBody_taken {mode : Bool} {n : Byte} (h : CallFree mode n s) (tag : Byte) :
    hostCallBody mode n tag s =
      (if mode then lrRealCase (.setHook .offHook) (callDialAccepted n tag) (refuseCall .lrCtrl tag)
        else lrRealCase (.setHook .ring) (callRingAccepted tag) (refuseCall .lrCtrl tag)) s := by
  have hfits : ¬ (s.line.st != .idle || s.line.inalarm || (mode && s.par.dialMax < n.toNat)) = true := by
    have hdial := h.fits
    cases mode <;> simp_all [h.idle, h.noAlarm]
  rw [hostCallBody, if_neg hfits, mwiAbortIfActive_inactive h.quiet]

theorem hostCallBody_ring {n : Byte} (h : CallFree false n s) (ha : AcceptingNext s) (tag : Byte) :
    hostCallBody false n tag s = callRingAccepted tag (spoke (lrWord (lineId s) (realH s) (.setHook .ring)) s) :=
  (hostCallBody_taken h tag).trans (lrRealCase_of_acceptingNext ha _ _ _)

theorem hostCallBody_dial {n : Byte} (h : CallFree true n s) (ha : AcceptingNext s) (tag : Byte) :
    hostCallBody true n tag s = callDialAccepted n tag (spoke (lrWord (lineId s) (realH s) (.setHook .offHook)) s) :=
  (hostCallBody_taken h tag).trans (lrRealCase_of_acceptingNext ha _ _ _)

theorem hostCallBody_notRung {mode : Bool} {n : Byte} (h : CallFree mode n s) (href : Refusing s) (tag : Byte) :
    hostCallBody mode n tag s = refuseCall .lrCtrl tag
      (spoke (lrWord (lineId s) (realH s) (.setHook (if mode then .offHook else .ring))) s) := by
  rw [hostCallBody_taken h]
  cases mode <;> exact lrRealCase_of_refusing href _ _ _

/-- The registers of a station that rings for its owner (R388). -/
def rungFor (tag : Byte) (timeout : Half) (s : State) : State :=
  s |> State.updLine (fun l => { l with st := .offered, calldir := .outRing, ringing := true, ringt := timeout, curleg := none })
    |> State.updBank .r (Bank.own tag) |> pendReal .needRinging

theorem rungFor_silent (tag : Byte) (timeout : Half) : Silent (rungFor tag timeout) := fun _ _ _ _ _ => rfl

theorem callClear_silent : Silent callClear := fun _ _ _ _ _ => rfl

/-- The registers of a station that rings, with its spill made (R388). -/
def rungWithSpill (tag : Byte) (s : State) : State :=
  rungFor tag (ticksOf s.par (cfgRingTimeoutMs s.cfg)) (generated .cid (callClear s))

theorem callRingAccepted_says (tag : Byte) (h : hasFeature s.cfg .cidTx = true) (hv : Says k s t) :
    Says (k + 1) (rungWithSpill tag s) (callRingAccepted tag t) := by
  have hacts := (callClear_silent.acts.then (cidGenerate_acts .cid)).thenSilent
    (rungFor_silent tag (ticksOf s.par (cfgRingTimeoutMs s.cfg)))
  have heq : callRingAccepted tag t =
      rungFor tag (ticksOf s.par (cfgRingTimeoutMs s.cfg)) (cidGenerate .cid (callClear t)) := by
    have hyes : hasFeature (callClear t).cfg .cidTx = true := hv.cfg ▸ h
    rw [callRingAccepted, onlyIf_true hyes, rungFor, hv.par, hv.cfg]
  rw [heq]
  exact ((hacts.silent.map hv).trans (hacts.spoken t)).mono (by omega)

theorem callRingAccepted_plain (tag : Byte) (h : hasFeature s.cfg .cidTx = false) :
    callRingAccepted tag s = rungFor tag (ticksOf s.par (cfgRingTimeoutMs s.cfg)) (callClear s) := by
  have hno : hasFeature (callClear s).cfg .cidTx = false := h
  rw [callRingAccepted, onlyIf_false hno, rungFor]

/-- The registers of a line that dials out for its owner (R388). -/
def dialled (n tag : Byte) (s : State) : State :=
  callClear s
    |> State.updLine (fun l =>
        { l with hook := true, st := .offered, calldir := .outDial, ringing := false, ringt := 0, curleg := some .r, diallen := n })
    |> State.updBank .r (Bank.own tag)

theorem callDialAccepted_eq (n tag : Byte) (s : State) : callDialAccepted n tag s = callDigits n (dialled n tag s) := rfl

theorem dialled_answers (n tag : Byte) (w : ActionWord) (s : State) :
    (dialled n tag (spoke w s)).env.answers = s.env.answers.tail := rfl

/-- What `CALL` in mode DIAL writes, whatever becomes of the digits (R388). -/
structure DialsOut (n tag : Byte) (pending dialing : Bool) (pend : BitVec 7) (s t : State) : Prop where
  line : t.line =
    { s.line with
      st := .offered, hook := true, calldir := .outDial, ringing := false, ringt := 0, prering := false, pol := false
      curleg := some .r, diallen := n, dialPending := pending, dialing := dialing }
  banks : t.banks = { s.banks with real := { s.banks.real with owned := true, owner := tag, pend := pend } }
  rx : t.rx = CidRxRegs.reset
  conf : t.conf = s.conf
  tx : t.tx = s.tx
  mwi : t.mwi = s.mwi
  cfg : t.cfg = s.cfg
  bytes : SameBytes s t
  inputs : SameInputs s t

theorem dialled_dialsOut (n tag : Byte) (w : ActionWord) (s : State) :
    DialsOut n tag s.line.dialPending s.line.dialing s.banks.real.pend s (dialled n tag (spoke w s)) :=
  ⟨rfl, rfl, rfl, rfl, rfl, rfl, rfl, .of_mem rfl, rfl, rfl⟩

theorem DialsOut.talk {n tag : Byte} {pending dialing : Bool} {pend : BitVec 7} (h : DialsOut n tag pending dialing pend s t)
    (htalk : Talk t u) : DialsOut n tag pending dialing pend s u :=
  ⟨htalk.line.trans h.line, htalk.banks.trans h.banks, htalk.rx.trans h.rx, htalk.conf.trans h.conf, htalk.tx.trans h.tx,
    htalk.mwi.trans h.mwi, htalk.cfg.trans h.cfg, h.bytes.trans (.of_mem htalk.mem), htalk.events.trans h.inputs.1,
    htalk.frames.trans h.inputs.2⟩

theorem DialsOut.pendReal {n tag : Byte} {pending dialing : Bool} {pend : BitVec 7} (h : DialsOut n tag pending dialing pend s t)
    (p : PendBit) : DialsOut n tag pending dialing (pend ||| p.mask) s (pendReal p t) :=
  { h with
    banks := by
      rw [Machine.pendReal, State.updBank_banks, h.banks]
      rfl
    bytes := h.bytes.trans (.of_mem rfl)
    inputs := ⟨h.inputs.1, h.inputs.2⟩ }

theorem DialsOut.dialPending {n tag : Byte} {pending dialing : Bool} {pend : BitVec 7} (h : DialsOut n tag pending dialing pend s t) :
    t.line.dialPending = pending := by rw [h.line]

theorem DialsOut.dialing {n tag : Byte} {pending dialing : Bool} {pend : BitVec 7} (h : DialsOut n tag pending dialing pend s t) :
    t.line.dialing = dialing := by rw [h.line]

theorem DialsOut.pend {n tag : Byte} {pending dialing : Bool} {pend : BitVec 7} (h : DialsOut n tag pending dialing pend s t) :
    t.banks.real.pend = pend := by rw [h.banks]

theorem DialsOut.line_eq {n tag : Byte} {pending dialing : Bool} {pend : BitVec 7} (h : DialsOut n tag pending dialing pend s t) :
    t.line =
      { s.line with
        st := .offered, hook := true, calldir := .outDial, ringing := false, ringt := 0, prering := false, pol := false
        curleg := some .r, diallen := n, dialPending := t.line.dialPending, dialing := t.line.dialing } := by
  rw [h.dialPending, h.dialing, h.line]

theorem DialsOut.banks_eq {n tag : Byte} {pending dialing : Bool} {pend : BitVec 7} (h : DialsOut n tag pending dialing pend s t) :
    t.banks = { s.banks with real := { s.banks.real with owned := true, owner := tag, pend := t.banks.real.pend } } := by
  rw [h.pend, h.banks]

theorem newWords_eq {ws : List ActionWord} (h : t.env.out = s.env.out ++ ws) : newWords s t = ws := by
  rw [newWords, h, List.drop_left]

theorem raise_out (e : ErrCode) (s : State) : (raise e s).env.out = s.env.out ++ [indWord (lineId s) hAny (.error e)] := rfl

theorem raise_err_congr (h : t.err = s.err) (e : ErrCode) : (raise e t).err = (raise e s).err := by
  simp only [raise_eq, h]

/-- What happens to the digits (R388). -/
theorem callDigits_cases (n : Byte) (s : State) :
    n = 0 ∧ callDigits n s = s ∨
    n ≠ 0 ∧ familyOf s.cfg = .trunk ∧ callDigits n s = s.updLine (fun l => { l with dialPending := true }) ∨
    n ≠ 0 ∧ familyOf s.cfg ≠ .trunk ∧ nextAnswer s = .ok ∧
      callDigits n s = (asked (lrWord (lineId s) (realH s) (.dial n)) s).updLine (fun l => { l with dialing := true }) ∨
    n ≠ 0 ∧ familyOf s.cfg ≠ .trunk ∧ nextAnswer s = .notOk ∧
      callDigits n s = pendReal .needCongestion (raise .lrCtrl (asked (lrWord (lineId s) (realH s) (.dial n)) s)) := by
  by_cases hn : n = 0
  · exact .inl ⟨hn, if_pos hn⟩
  by_cases hf : familyOf s.cfg = .trunk
  · exact .inr (.inl ⟨hn, hf, (if_neg hn).trans (if_pos hf)⟩)
  have heq : callDigits n s = lrRealCase (.dial n) (State.updLine fun l => { l with dialing := true })
      (fun s => s |> raise .lrCtrl |> pendReal .needCongestion) s := (if_neg hn).trans (if_neg hf)
  rw [lrRealCase, lrCase_eq] at heq
  cases ha : nextAnswer s with
  | ok => exact .inr (.inr (.inl ⟨hn, hf, rfl, heq.trans (by rw [ha])⟩))
  | notOk => exact .inr (.inr (.inr ⟨hn, hf, rfl, heq.trans (by rw [ha])⟩))

/-- The samples of a call's spill, written out (R251). -/
theorem cidSamples_cid (s : State) :
    cidSamples .cid s =
      match cidSigOf s.cfg with
      | .bell202 => (Config.waveforms s.par.codec).synthFsk .bell202 (cfgLaw s.cfg)
          (fskBits s.par.codec .cid (mdmf s.par.codec (cidNumber s) (cidName s)))
      | .v23 => (Config.waveforms s.par.codec).synthFsk .v23 (cfgLaw s.cfg)
          (fskBits s.par.codec .cid (mdmf s.par.codec (cidNumber s) (cidName s)))
      | .dtmf => dtmfSynth s.par.codec (cfgLaw s.cfg)
          ([s.par.codec.startMarker] ++ (cidNumber s).filter wfPulse ++ [s.par.codec.stopMarker]) := rfl

end Sys2Proof.Machine

namespace Sys2Proof

open Sys2Proof.Machine

/-- Settles O31: `RINGOFF` by what waits for it. -/
theorem ringoffWord : Obligations.RingoffWord := by
  intro s i hi hs
  rw [exec_ringoff hi hs]
  refine ⟨fun hm => ?alert, fun hm hst hdir hkind hgo => ?spill, fun hm hno => congrArg _ (ringoffBody_nothing hm hno)⟩
  case alert =>
    have h := mwiRingOff_says s
    rw [ringoffBody_alert hm]
    exact ⟨_, rfl, h.mwi, h.line, h.banks, h.conf, h.tx, h.rx, h.cfg, .of_mem h.mem, ⟨h.events, h.frames⟩,
      lrReal_head (.setHook .ringOff) s (List.prefix_refl _), h.noError rfl rfl (by decide)⟩
  case spill =>
    have h := spillStart_passes s
    rw [ringoffBody_spill hm ⟨hst, hdir, hkind, hgo⟩]
    generalize spillStart s = t at h
    have hsusp : t.conf.confSusp = (begun s).conf.confSusp := (congrArg ConfRegs.confSusp h.conf :)
    have hsave : t.conf.saveconf = (begun s).conf.saveconf := (congrArg ConfRegs.saveconf h.conf :)
    refine ⟨t, rfl, ?_⟩
    rw [hsusp, hsave]
    exact ⟨ h.tx, suspended_confSusp _, fun hrun => congrArg ConfRegs.saveconf (suspended_conf_of_running hrun),
      (h.banks .r).logical, (h.banks .cw).logical, (h.banks .tw).logical,
      h.conf.trans (congrArg ConfRegs.logical (suspended_conf_eq _)), h.line, h.callFrame rfl rfl rfl rfl rfl rfl rfl,
      h.noError rfl rfl (by decide)⟩

/-- Settles O48: the refusals, and the equations of the two modes. -/
theorem callWord : Obligations.CallWord := by
  intro s n tag hc
  have hexec (mode : Bool) := exec_hostCall_of_configured hc mode n tag
  refine ⟨fun mode h => (hexec mode).trans (congrArg _ (hostCallBody_refused h tag)), fun mode hidle hin hn hm href => ?notRung,
    fun hidle hin hm ha hf => ?plain, fun hidle hin hm ha hf hp => ?spill, fun hidle hin hm ha hn => ?dial⟩
  case notRung => exact (hexec mode).trans (congrArg _ (hostCallBody_notRung ⟨hidle, hin, hn, hm⟩ href tag))
  case plain =>
    rw [hexec, hostCallBody_ring ⟨hidle, hin, nofun, hm⟩ ha, callRingAccepted_plain (s := spoke _ s) tag hf]
    rfl
  case spill =>
    intro p law num name samples
    rw [hexec]
    have hsamples : cidSamples .cid s = samples := cidSamples_cid s
    have hle := cidSamples_length_le hp .cid
    have hlen := toNat_ofNat_of_le_spillBytes hp hle
    have hpos := cidSamples_length_pos hp .cid
    have hfree : CallFree false n s := ⟨hidle, hin, nofun, hm⟩
    have hword := asked_says (lrWord (lineId s) (realH s) (.setHook .ring)) s
    rw [asked_eq_spoke ha] at hword
    have h := callRingAccepted_says tag hf hword
    rw [← hostCallBody_ring hfree ha tag] at h
    generalize hostCallBody false n tag s = t at h
    have htx : t.tx = { SpillRegs.reset with kind := .cid, len := BitVec.ofNat 16 (cidSamples .cid s).length } := h.tx
    have hmem := loaded_of_mem (s := s) (t := t) (length_le_of_le_spillBytes hp hle) h.mem
    have htxlen : t.tx.len.toNat = (cidSamples .cid s).length := by rw [htx]; exact hlen
    rw [← hsamples]
    refine ⟨t, rfl, h.line, h.banks, htx, ?_, hmem.bytes, h.conf, h.rx, h.mwi, h.cfg, ?_, ⟨h.events, h.frames⟩,
      h.noError rfl rfl (by decide)⟩
    · rw [BitVec.lt_def, htxlen]
      exact hpos
    · rw [htxlen]
      exact hmem.others
  case dial =>
    rw [hexec, hostCallBody_dial ⟨hidle, hin, fun _ => hn, hm⟩ ha, callDialAccepted_eq]
    obtain ⟨word, hword⟩ : ∃ word, word = lrWord (lineId s) (realH s) (.setHook .offHook) := ⟨_, rfl⟩
    have hacc (hs : Accepting s) : nextAnswer (dialled n tag (spoke word s)) = .ok :=
      nextAnswer_of_accepts (n := 62) ((hs.accepts.mono (by decide) : Accepts 64 s).spoke word)
    have hrefused (rest) (hs : s.env.answers = .ok :: .notOk :: rest) : nextAnswer (dialled n tag (spoke word s)) = .notOk :=
      nextAnswer_of_head? (by rw [dialled_answers, hs]; rfl)
    have hout := dialled_dialsOut n tag word s
    have hpos (h : 0 < n) : n ≠ 0 := (BitVec.ne_of_lt h).symm
    have hdial : lrWord (lineId (dialled n tag (spoke word s))) (realH (dialled n tag (spoke word s))) (.dial n) =
        lrWord (lineId s) (realH s) (.dial n) := rfl
    rw [← hword]
    obtain ⟨h0, heq⟩ | ⟨h0, hf, heq⟩ | ⟨h0, hf, hans, heq⟩ | ⟨h0, hf, hans, heq⟩ := callDigits_cases n (dialled n tag (spoke word s))
    case inl =>
      rw [heq]
      exact ⟨_, rfl, hout.line_eq, fun _ h => absurd h0 (hpos h), fun _ => hout.dialPending, fun _ => hout.dialing,
        fun _ _ h => absurd h0 (hpos h), fun _ _ _ h => absurd h0 (hpos h), hout.banks_eq, fun _ => hout.pend, hout.rx, hout.conf,
        hout.tx, hout.mwi, hout.cfg, hout.bytes, hout.inputs, fun _ => rfl⟩
    case inr.inl =>
      rw [heq]
      have h : DialsOut n tag true s.line.dialing s.banks.real.pend s
          ((dialled n tag (spoke word s)).updLine fun l => { l with dialPending := true }) :=
        ⟨rfl, rfl, rfl, rfl, rfl, rfl, rfl, .of_mem rfl, rfl, rfl⟩
      exact ⟨_, rfl, h.line_eq, fun _ _ => ⟨h.dialPending, h.dialing⟩, fun hno => absurd hf (hno.resolve_right h0),
        fun hn0 => absurd hn0 h0, fun _ hno => absurd hf hno, fun _ _ hno => absurd hf hno, h.banks_eq, fun _ => h.pend, h.rx, h.conf,
        h.tx, h.mwi, h.cfg, h.bytes, h.inputs, fun _ => rfl⟩
    case inr.inr.inl =>
      rw [hdial] at heq
      rw [heq]
      obtain ⟨v, hv⟩ : ∃ v, v = asked (lrWord (lineId s) (realH s) (.dial n)) (dialled n tag (spoke word s)) := ⟨_, rfl⟩
      have hd := hout.talk (hv ▸ asked_talk _ _ : Talk _ v)
      have herr : v.err = s.err := hv ▸ asked_err _ _
      have hwords : v.env.out = s.env.out ++ [word, lrWord (lineId s) (realH s) (.dial n)] := by
        rw [hv, asked_out]
        exact List.append_assoc s.env.out [word] _
      have h : DialsOut n tag s.line.dialPending true s.banks.real.pend s (v.updLine fun l => { l with dialing := true }) :=
        { hd with line := by rw [State.updLine_line, hd.line], bytes := hd.bytes.trans (.of_mem rfl),
                  inputs := ⟨hd.inputs.1, hd.inputs.2⟩ }
      rw [← hv]
      exact ⟨_, rfl, h.line_eq, fun htrunk => absurd htrunk hf, fun _ => h.dialPending, fun hn0 => absurd hn0 h0,
        fun _ _ _ => ⟨h.dialing, by rw [hword] at hwords; exact newWords_eq hwords⟩,
        fun rest hs => absurd (hans.symm.trans (hrefused rest hs)) (by decide), h.banks_eq, fun _ => h.pend, h.rx, h.conf,
        h.tx, h.mwi, h.cfg, h.bytes, h.inputs, fun _ => herr⟩
    case inr.inr.inr =>
      rw [hdial] at heq
      rw [heq]
      obtain ⟨v, hv⟩ : ∃ v, v = asked (lrWord (lineId s) (realH s) (.dial n)) (dialled n tag (spoke word s)) := ⟨_, rfl⟩
      have hd := hout.talk (hv ▸ asked_talk _ _ : Talk _ v)
      have herr : (raise .lrCtrl v).err = (raise .lrCtrl s).err := raise_err_congr (hv ▸ asked_err _ _) _
      have hwords : (raise .lrCtrl v).env.out = s.env.out ++
          [word, lrWord (lineId s) (realH s) (.dial n), indWord (lineId s) 0xF (.error .lrCtrl)] := by
        have hid : lineId v = lineId s := congrArg cfgLineId hd.cfg
        rw [raise_out, hid, hv, asked_out, List.append_assoc]
        exact List.append_assoc s.env.out [word] _
      have h := (hd.talk (raise_talk .lrCtrl v)).pendReal .needCongestion
      rw [← hv]
      refine ⟨_, rfl, h.line_eq, fun htrunk => absurd htrunk hf, fun _ => h.dialPending, fun _ => h.dialing,
        fun hs => absurd ((hacc hs).symm.trans hans) (by decide), fun rest hs hno hpos => ⟨h.dialing, h.pend, herr, ?_⟩, h.banks_eq,
        fun hno => ?_, h.rx, h.conf, h.tx, h.mwi, h.cfg, h.bytes, h.inputs, fun hs => absurd ((hacc hs).symm.trans hans) (by decide)⟩
      · rw [hword] at hwords
        exact newWords_eq hwords
      · obtain hs | htrunk | hn0 := hno
        · exact absurd ((hacc hs).symm.trans hans) (by decide)
        · exact absurd htrunk hf
        · exact absurd hn0 h0

end Sys2Proof

end

/-! PROOFS. `CWOFFER` (O52). -/

section

namespace Sys2Proof.Machine

variable {s t u : State} {i : Instr} {j k : Nat}

theorem exec_hostCwoffer_of_configured (h : s.line.configured = true) (tag : Byte) :
    exec (.hostCwoffer tag) s = .next (hostCwofferBody tag s) := congrArg Host.Outcome.next (hostEntry_configured h)

/-- A line that can be offered a second call (R394). -/
structure OfferOpen (s : State) : Prop where
  feature : hasFeature s.cfg .callWaiting = true
  active : s.line.st = .active
  offHook : s.line.hook = true

theorem hostCwofferBody_closed (h : hasFeature s.cfg .callWaiting = false ∨ s.line.st ≠ .active ∨ s.line.hook = false) (tag : Byte) :
    hostCwofferBody tag s = refuseCw .refused tag s := if_pos (by simpa [or_assoc] using h)

theorem hostCwofferBody_busy (h : OfferOpen s) (hb : s.banks.cw.alloc = true ∨ s.banks.tw.alloc = true) (tag : Byte) :
    hostCwofferBody tag s = refuseCw .conflict tag s := by
  rw [hostCwofferBody, if_neg (by simp [h.feature, h.active, h.offHook])]
  exact if_pos (by simpa using hb)

theorem hostCwofferBody_free (h : OfferOpen s) (hcw : s.banks.cw.alloc = false) (htw : s.banks.tw.alloc = false) (tag : Byte) :
    hostCwofferBody tag s =
      lrCase (lineId s) (handleField (freeHandle s)) .openLine
        (fun t => cwofferAccepted tag (t.updBank .cw fun _ => freshBank (freeHandle s))) (refuseCw .lrOpen tag) s := by
  rw [hostCwofferBody, if_neg (by simp [h.feature, h.active, h.offHook]), if_neg (by simp [hcw, htw])]
  exact allocLeg_free (x := .cw) hcw _ _ _

/-- The bank of the leg that waits (R394). -/
def waitingLeg (tag : Byte) (h : Handle) (s : State) : State :=
  (s.updBank .cw fun _ => freshBank h).updBank .cw fun b => Bank.setPend .needRinging (Bank.own tag b)

theorem waitingLeg_silent (tag : Byte) (h : Handle) : Silent (waitingLeg tag h) := fun _ _ _ _ _ => rfl

theorem asked_acts (w : ActionWord) : Acts 1 id (asked w) := acts_of_says (asked_says w)

/-- `CW_ALERT` (R255) after an operation. -/
theorem Acts.thenCwAlert {p f : State → State} (h : Acts k p f) (s : State) :
    Passes (k + 9) ((begun (generated .cwcid (p s))).updLine fun l => { l with cwrepeat := ticksOf (p s).par (cfgCwRepeatMs (p s).cfg) })
      (cwAlert (f s)) := by
  have hpass := ((h.then (cidGenerate_acts .cwcid)).thenSpillStart s).updLine fun l =>
    { l with cwrepeat := ticksOf (p s).par (cfgCwRepeatMs (p s).cfg) }
  have htalk := h.spoken s
  rw [cwAlert, htalk.par, htalk.cfg]
  exact hpass

theorem hostCwofferBody_accepted (h : OfferOpen s) (hcw : s.banks.cw.alloc = false) (htw : s.banks.tw.alloc = false)
    (ha : AcceptingNext s) (tag : Byte) :
    hostCwofferBody tag s =
      cwAlert (waitingLeg tag (freeHandle s) (asked (lrWord (lineId s) (handleField (freeHandle s)) .openLine) s)) := by
  rw [hostCwofferBody_free h hcw htw, lrCase_of_acceptingNext ha, asked_eq_spoke ha]
  rfl

end Sys2Proof.Machine

namespace Sys2Proof

open Sys2Proof.Machine

/-- Settles O52: the refusals, and `CW_ALERT` on the leg allocated. -/
theorem cwofferWord : Obligations.CwofferWord := by
  intro s tag hc
  have hexec := exec_hostCwoffer_of_configured hc tag
  refine ⟨fun hf hst hoff hcw htw hacc hp => ?accepted, fun h => hexec.trans (congrArg _ (hostCwofferBody_closed h tag)),
    fun hf hst hoff hb => hexec.trans (congrArg _ (hostCwofferBody_busy ⟨hf, hst, hoff⟩ hb tag)),
    fun hf hst hoff hcw htw href => hexec.trans (congrArg _ ?notOpened)⟩
  case accepted =>
    intro p tone samples
    have hsamples : cidSamples .cwcid s = samples := rfl
    have hsame : cidSamples .cwcid (waitingLeg tag (freeHandle s) s) = cidSamples .cwcid s := cidSamples_congr rfl rfl rfl _
    have hle := cidSamples_length_le hp .cwcid
    have hlen := toNat_ofNat_of_le_spillBytes hp hle
    have h := ((asked_acts (lrWord (lineId s) (handleField (freeHandle s)) .openLine)).thenSilent
      (waitingLeg_silent tag (freeHandle s))).thenCwAlert s
    rw [← hostCwofferBody_accepted ⟨hf, hst, hoff⟩ hcw htw hacc.accepts.acceptingNext] at h
    rw [hexec, ← hsamples]
    generalize hostCwofferBody tag s = t at h
    have htx : t.tx =
        { kind := .cwcid, len := BitVec.ofNat 16 (cidSamples .cwcid s).length, rd := 0, go := true
          linSaved := linearAfterDiscard s } := by
      rw [← hsame]
      exact h.tx
    have hmem : t.mem = (wr .spill 0 (cidSamples .cwcid s) s).mem := by
      rw [← hsame]
      exact h.mem
    obtain ⟨hbytes, hothers⟩ := loaded_of_mem (length_le_of_le_spillBytes hp hle) hmem
    have hconf : t.conf.logical = { s.conf with confSusp := true, saveconf := s.banks.real.cur }.logical := h.conf
    have hbank : (Bank.setPend .needRinging (Bank.own tag (freshBank (freeHandle s)))).logical =
        { Bank.empty with
          alloc := true, res := freeHandle s, owned := true, owner := tag, pend := PendBit.needRinging.mask } := by
      simp [Bank.setPend, Bank.own, freshBank, Bank.logical, Bank.empty, descNone]
    refine ⟨t, rfl, (h.banks .cw).logical.trans hbank, (h.banks .tw).logical, h.line, ⟨htx, hbytes, hothers, (h.banks .r).logical, hconf⟩,
      fun hplain => ?_, h.rx, h.mwi, h.cfg, ⟨h.events, h.frames⟩, h.noError rfl rfl (by decide) hacc⟩
    have hshort : t.tx.len.toNat = p.casShortSamples := by
      rw [htx, hlen, cidSamples, if_neg (by simp [hplain]), casShort_length]
    exact ⟨hshort, fun hdef => BitVec.eq_of_toNat_eq (hshort.trans (by rw [hdef]; rfl))⟩
  case notOpened =>
    rw [hostCwofferBody_free ⟨hf, hst, hoff⟩ hcw htw, lrCase_of_refusing href]
    rfl

end Sys2Proof

end

/-! PROOFS. The Caller-ID receiver: how a decode ends (R269, R275, R284), and the digits (O32). -/

section

namespace Sys2Proof.Machine

variable {s t u : State} {i : Instr} {j k : Nat}

theorem said_nil (s : State) : said [] s = s := by
  cases s with
  | mk par line banks conf tx rx mwi err cfg mem env => cases env; simp [said, State.updEnv]

/-! ### The end of a decode (R269, R284) -/

/-- A decode that ends while the line rings may start the cadence sampling (R269). -/
theorem concludeIfOffered_eq (s : State) :
    concludeIfOffered s = s.updRx fun r => { r with dringOn := r.dringOn || samplingStarts s } := by
  by_cases hst : s.line.st = .offered
  · have hcond : (deferDring s.cfg && dringCfg s.par s.cfg && !s.rx.dringDone) = samplingStarts s := by simp [samplingStarts, hst]
    rw [concludeIfOffered, onlyIf_true (by simp [hst]), cidConcluded, onlyIf, hcond]
    cases samplingStarts s <;> simp [State.updRx]
  · rw [concludeIfOffered, onlyIf_false (by simp [hst])]
    have hno : (s.line.st == .offered) = false := by simpa using hst
    simp [samplingStarts, hno, State.updRx]

/-- The result is due and the receiver at rest (R284). -/
def reports (s : State) : Bool := resultDue s && cidrxAtRest s.rx.st && !s.rx.dringOn

/-- What is told then. -/
def reportWords (s : State) : List ActionWord :=
  if reports s then [indWord (lineId s) 0 (.cidResult s.rx.cidValid s.rx.ctx)] else []

theorem cidrxCheckResult_eq (s : State) :
    cidrxCheckResult s = said (reportWords s) (s.updRx fun r => { r with resultSent := r.resultSent || reports s }) := by
  rw [cidrxCheckResult, onlyIf, reportWords]
  cases hr : reports s
  · rw [if_neg (by simpa [reports, resultDue] using hr), if_neg Bool.false_ne_true, said_nil]
    simp [State.updRx]
  · rw [if_pos (by simpa [reports, resultDue] using hr), if_pos rfl]
    simp [sendCidResult, indicateLeg, emit_eq, said, State.updRx, State.updEnv, legField4]
    rfl

theorem cidrxCheckResult_of_quiet (h : reports s = false) : cidrxCheckResult s = s := by
  rw [cidrxCheckResult_eq, reportWords, h, if_neg Bool.false_ne_true, said_nil]
  simp [State.updRx]

/-- Where a decode has just ended, the two together leave `concludedRx` and say `concludedWords`. -/
theorem cidrxCheckResult_concludeIfOffered {st : CidRxState} (hst : cidrxAtRest st = true) (valid : Bool) (s : State) :
    cidrxCheckResult (concludeIfOffered (s.updRx fun r => { r with st := st, cidValid := valid })) =
      said (concludedWords valid s) { s with rx := concludedRx st valid s } := by
  rw [concludeIfOffered_eq, cidrxCheckResult_eq]
  have hstarts : samplingStarts (s.updRx fun r => { r with st := st, cidValid := valid }) = samplingStarts s := rfl
  simp only [hstarts, reportWords, reports, resultDue, concludedWords, concludedRx, State.updRx_line, State.updRx_rx, hst, Bool.and_true]
  rfl

/-! ### The commit (R275) -/

theorem cidOutField_head (max : Nat) (v : List Byte) (h : 0 < (cidOutField max v).length) :
    (cidOutField max v)[0] = BitVec.ofNat 8 (min v.length max) := rfl

theorem cidOutField_succ {max k : Nat} (v : List Byte) (h : k + 1 < (cidOutField max v).length) :
    (cidOutField max v)[k + 1] = if k < max then v.getD k 0 else 0 := by
  simp only [cidOutField, List.getElem_cons_succ, List.getElem_append, List.length_take, List.getElem_take, List.getElem_replicate]
  by_cases hk : k < max <;> by_cases hv : k < v.length
  · rw [dif_pos (by omega), if_pos hk, List.getD_eq_getElem _ _ hv]
  · rw [dif_neg (by omega), if_pos hk, List.getD_eq_default _ _ (by omega)]
  · rw [dif_neg (by omega), if_neg hk]
  · rw [dif_neg (by omega), if_neg hk]

/-- A byte of the memory after a commit. -/
theorem rd_cidrxCommit (hp : s.par.ok) (num name : List Byte) (sp : Space) {a : Nat} (ha : a < 65536) :
    rd sp a (cidrxCommit num name s) =
      if h : sp = .cidout ∧ 17 ≤ a ∧ a < 17 + (cidOutField s.par.nameMax name).length then
        (cidOutField s.par.nameMax name)[a - 17]
      else if h : sp = .cidout ∧ 0 ≤ a ∧ a < 0 + (cidOutField s.par.numMax num).length then
        (cidOutField s.par.numMax num)[a - 0]
      else rd sp a s := by
  obtain ⟨-, -, -, hnum, hname, -⟩ := hp
  have hnumLen := cidOutField_length hnum num
  have hnameLen := cidOutField_length hname name
  refine (rd_wr .cidout sp 17 a _ _ (by rw [hnameLen]; decide) ha).trans ?_
  simp only [rd_wr .cidout sp 0 a (cidOutField s.par.numMax num) s (by rw [hnumLen]; decide) ha]

theorem cidrxCommit_committed (hp : s.par.ok) (num name : List Byte) (hmem : t.mem = (cidrxCommit num name s).mem)
    (hpar : t.par = s.par) : Committed num name t ∧ SameBytesBut .cidout 0 34 s t := by
  have hnumLen := cidOutField_length hp.2.2.2.1 num
  have hnameLen := cidOutField_length hp.2.2.2.2.1 name
  have hrd (sp : Space) (a : Nat) : rd sp a t = rd sp a (cidrxCommit num name s) := by simp only [rd, hmem]
  refine ⟨⟨?_, fun k hk => ?_, ?_, fun k hk => ?_⟩, fun sp a ha hno => ?_⟩
  · rw [hrd, rd_cidrxCommit hp num name _ (by omega), dif_neg (by omega), dif_pos ⟨rfl, by omega, by omega⟩, hpar]
    exact cidOutField_head _ _ _
  · rw [hrd, rd_cidrxCommit hp num name _ (by omega), dif_neg (by omega), dif_pos ⟨rfl, by omega, by omega⟩, hpar]
    simp only [Nat.sub_zero, Nat.add_comm 1 k, cidOutField_succ]
  · rw [hrd, rd_cidrxCommit hp num name _ (by omega), dif_pos ⟨rfl, by omega, by omega⟩, hpar]
    exact cidOutField_head _ _ _
  · rw [hrd, rd_cidrxCommit hp num name _ (by omega), dif_pos ⟨rfl, by omega, by omega⟩, hpar]
    simp only [show 18 + k - 17 = k + 1 by omega, cidOutField_succ]
  · have hno' : ¬ (sp = .cidout ∧ a < 34) := fun h => hno ⟨h.1, by omega, h.2⟩
    rw [hrd, rd_cidrxCommit hp num name _ ha, dif_neg (fun h => hno' ⟨h.1, by omega⟩), dif_neg (fun h => hno' ⟨h.1, by omega⟩)]

/-! ### Digits (R160, R161) -/

theorem exec_pulsedigit {d : Byte} (h : i = .hwPulsedigit d ∨ i = .fakePulsedigit d) (hs : LineReady s) :
    exec i s = .next (pulsedigitBody d s) := by
  obtain rfl | rfl := h <;> exact congrArg Host.Outcome.next (lineEntry_ready hs)

theorem exec_dtmfdigit {d : Byte} (h : i = .hwDtmfdigit d ∨ i = .fakeDtmfdigit d) (hs : LineReady s) :
    exec i s = .next (dtmfdigitBody d s) := by
  obtain rfl | rfl := h <;> exact congrArg Host.Outcome.next (lineEntry_ready hs)

theorem takesDigit_of_ready (hs : LineReady s) : takesDigit s = (s.banks.real.owned && s.line.hook && s.line.st != .idle) := by
  have hrel := hs.notReleasing
  cases hst : s.line.st <;> simp_all [takesDigit, CallState.isCall]

theorem deliverDigit_taken (hs : LineReady s) (ho : s.banks.real.owned = true) (hoff : s.line.hook = true) (hst : s.line.st ≠ .idle)
    (d : Byte) (pulse : Bool) : deliverDigit d pulse s = said [indWord (lineId s) 0 (.digit d pulse)] s :=
  if_pos (by simp [takesDigit_of_ready hs, ho, hoff, hst])

theorem deliverDigit_untaken (hs : LineReady s) (h : s.banks.real.owned = false ∨ s.line.hook = false ∨ s.line.st = .idle)
    (d : Byte) (pulse : Bool) : deliverDigit d pulse s = raise .unexpected s :=
  if_neg (by obtain h | h | h := h <;> simp [takesDigit_of_ready hs, h])

theorem wfPulse_eq (d : Byte) : wfPulse d = isDecimal d := rfl

theorem pulsedigitBody_bad {d : Byte} (h : wfPulse d = false) : pulsedigitBody d s = raise .badArg s :=
  if_pos (by rw [← wfPulse_eq, h]; rfl)

theorem pulsedigitBody_digit {d : Byte} (h : wfPulse d = true) : pulsedigitBody d s = deliverDigit d true s :=
  if_neg (by rw [← wfPulse_eq, h]; decide)

theorem wfDtmf_eq (d : Byte) : wfDtmf d = isDtmf d := rfl

theorem dtmfdigitBody_bad {d : Byte} (h : wfDtmf d = false) : dtmfdigitBody d s = raise .badArg s :=
  if_pos (by rw [← wfDtmf_eq, h]; rfl)

theorem dtmfdigitBody_eq {d : Byte} (h : wfDtmf d = true) :
    dtmfdigitBody d s =
      if s.line.postwin != 0 then s
      else if rxDtmf s.cfg && s.rx.st == .decoding then cidrxDtmf d s
      else deliverDigit d false s := if_neg (by rw [← wfDtmf_eq, h]; decide)

theorem dtmfdigitBody_suppressed {d : Byte} (h : wfDtmf d = true) (hw : s.line.postwin ≠ 0) : dtmfdigitBody d s = s :=
  (dtmfdigitBody_eq h).trans (if_pos (by simpa using hw))

theorem dtmfdigitBody_delivered {d : Byte} (h : wfDtmf d = true) (hw : s.line.postwin = 0)
    (hrx : rxDtmf s.cfg = false ∨ s.rx.st ≠ .decoding) : dtmfdigitBody d s = deliverDigit d false s := by
  rw [dtmfdigitBody_eq h, if_neg (by simp [hw]), if_neg]
  obtain hrx | hrx := hrx <;> simp [hrx]

theorem dtmfdigitBody_decoded {d : Byte} (h : wfDtmf d = true) (hw : s.line.postwin = 0) (hst : s.rx.st = .decoding)
    (hrx : rxDtmf s.cfg = true) : dtmfdigitBody d s = cidrxDtmf d s := by
  rw [dtmfdigitBody_eq h, if_neg (by simp [hw]), if_pos (by simp [hst, hrx])]

/-! ### The DTMF decoder (R276) -/

theorem reports_of_decoding (h : s.rx.st = .decoding) : reports s = false := by simp [reports, h, cidrxAtRest]

theorem cidrxDtmf_closed (hst : s.rx.st = .decoding) (h : s.rx.dtmfOpen = false) (d : Byte) :
    cidrxDtmf d s = if d = s.par.codec.startMarker then { s with rx := { s.rx with dtmfOpen := true } } else s := by
  have hbody : cidrxDtmf d s =
      cidrxCheckResult (if d = s.par.codec.startMarker then { s with rx := { s.rx with dtmfOpen := true } } else s) := by
    rw [cidrxDtmf, ifElse, if_pos (by simp [h])]
    simp only [onlyIf, beq_iff_eq, State.updRx]
  rw [hbody]
  split <;> exact cidrxCheckResult_of_quiet (reports_of_decoding hst)

theorem cidrxDtmf_open (h : s.rx.dtmfOpen = true) (d : Byte) :
    cidrxDtmf d s =
      cidrxCheckResult
        (if d = s.par.codec.stopMarker then concludeIfOffered (cidrxCommit (rdList .dtmfacc 0 s.rx.dtmflen.toNat s) [] s)
          else if wfPulse d = true then appendDigit d s else concludeIfOffered (cidrxFail .cidFail s)) := by
  rw [cidrxDtmf, ifElse, if_neg (by simp [h])]
  simp only [ifElse, beq_iff_eq]
  rfl

theorem cidrxDtmf_stop (h : s.rx.dtmfOpen = true) :
    cidrxDtmf s.par.codec.stopMarker s =
      said (concludedWords true s)
        { cidrxCommit (rdList .dtmfacc 0 s.rx.dtmflen.toNat s) [] s with rx := concludedRx .done true s } := by
  rw [cidrxDtmf_open h, if_pos rfl]
  exact cidrxCheckResult_concludeIfOffered (st := .done) rfl true
    ((s |> wr .cidout 0 (cidOutField s.par.numMax (rdList .dtmfacc 0 s.rx.dtmflen.toNat s)))
      |> wr .cidout 17 (cidOutField s.par.nameMax []))

theorem cidrxDtmf_fail (h : s.rx.dtmfOpen = true) {d : Byte} (hd : d ≠ s.par.codec.stopMarker) (hno : wfPulse d = false) :
    cidrxDtmf d s =
      said (concludedWords s.rx.cidValid s) { raise .cidFail s with rx := concludedRx .fail s.rx.cidValid s } := by
  rw [cidrxDtmf_open h, if_neg hd, if_neg (by simp [hno])]
  exact cidrxCheckResult_concludeIfOffered (st := .fail) rfl s.rx.cidValid (raise .cidFail s)

/-- A digit that is gathered (R276). -/
theorem cidrxDtmf_digit (hst : s.rx.st = .decoding) (h : s.rx.dtmfOpen = true) {d : Byte} (hd : d ≠ s.par.codec.stopMarker)
    (hdigit : wfPulse d = true) :
    cidrxDtmf d s =
      if s.rx.dtmflen.toNat < s.par.numMax then
        (wr .dtmfacc s.rx.dtmflen.toNat [d] s).updRx fun r => { r with dtmflen := r.dtmflen + 1 }
      else s := by
  rw [cidrxDtmf_open h, if_neg hd, if_pos hdigit, appendDigit, onlyIf]
  simp only [decide_eq_true_eq]
  split <;> exact cidrxCheckResult_of_quiet (reports_of_decoding hst)

theorem newWords_said {ws : List ActionWord} (h : t.env.out = s.env.out) : newWords s (said ws t) = ws :=
  newWords_eq (congrArg (· ++ ws) h)

end Sys2Proof.Machine

namespace Sys2Proof

open Sys2Proof.Machine

/-- Settles O32: `deliverDigit`, or the branches of `cidrxDtmf`. -/
theorem digitWords : Obligations.DigitWords := by
  intro s d i hs untaken
  refine ⟨fun hi => ?pulse, fun hi => ?dtmf⟩
  case pulse =>
    rw [exec_pulsedigit hi hs]
    exact ⟨fun hd => congrArg _ (pulsedigitBody_bad hd),
      fun hd ho hoff hst => congrArg _ ((pulsedigitBody_digit hd).trans (deliverDigit_taken hs ho hoff hst d true)),
      fun hd hno => congrArg _ ((pulsedigitBody_digit hd).trans (deliverDigit_untaken hs hno d true))⟩
  rw [exec_dtmfdigit hi hs]
  refine ⟨fun hd => congrArg _ (dtmfdigitBody_bad hd), fun hd hw => congrArg _ (dtmfdigitBody_suppressed hd hw),
    fun hd hw hrx => ?delivered, fun hd hw hst hrx => ?decoded⟩
  case delivered =>
    rw [dtmfdigitBody_delivered hd hw hrx]
    exact ⟨fun ho hoff hst => congrArg _ (deliverDigit_taken hs ho hoff hst d false),
      fun hno => congrArg _ (deliverDigit_untaken hs hno d false)⟩
  rw [dtmfdigitBody_decoded hd hw hst hrx]
  refine ⟨fun hopen => congrArg _ (cidrxDtmf_closed hst hopen d), fun hopen hstop hp => ?stop, fun hopen hne hdigit hlen => ?digit,
    fun hopen hne hdigit hlen => congrArg _ ((cidrxDtmf_digit hst hopen hne hdigit).trans (if_neg (Nat.not_lt.mpr hlen))),
    fun hopen hne hdigit => ?other⟩
  case stop =>
    subst hstop
    rw [cidrxDtmf_stop hopen]
    obtain ⟨hcommitted, hbytes⟩ := cidrxCommit_committed hp (rdList .dtmfacc 0 s.rx.dtmflen.toNat s) []
      (t := said (concludedWords true s)
        { cidrxCommit (rdList .dtmfacc 0 s.rx.dtmflen.toNat s) [] s with rx := concludedRx .done true s }) rfl rfl
    exact ⟨_, rfl, rfl, hcommitted, hbytes, newWords_said rfl, rfl⟩
  case digit =>
    rw [cidrxDtmf_digit hst hopen hne hdigit, if_pos hlen]
    refine ⟨_, rfl, rfl, ?_, fun sp a ha hno => ?_, rfl⟩
    · refine (rd_wr .dtmfacc .dtmfacc s.rx.dtmflen.toNat s.rx.dtmflen.toNat [d] s ?_ ?_).trans ?_
      · simp; omega
      · omega
      · simp
    · refine (rd_wr .dtmfacc sp s.rx.dtmflen.toNat a [d] s ?_ ha).trans (dif_neg hno)
      simp; omega
  case other =>
    rw [cidrxDtmf_fail hopen hne hdigit]
    refine ⟨_, rfl, rfl, rfl, ?_, rfl⟩
    exact newWords_eq (by
      rw [← List.singleton_append, ← List.append_assoc]
      rfl)

end Sys2Proof

end

/-! PROOFS. Ring bursts (O26) and distinctive ring (O59). -/

section

namespace Sys2Proof.Machine

variable {s t u : State} {i : Instr} {j k : Nat}

/-! ### The context (R282) -/

/-- A target fits a gap (R282), on mathematical integers. -/
theorem gapMatches_iff (wildcard target range gap : Half) :
    gapMatches wildcard target range gap = true ↔
      target = wildcard ∨ ((gap.toNat : Int) - target.toInt ≤ range.toNat ∧ target.toInt - (gap.toNat : Int) ≤ range.toNat) := by
  simp only [gapMatches, Bool.or_eq_true, beq_iff_eq, decide_eq_true_eq]
  exact or_congr_right (by omega)

theorem patternMatches_iff (p : Config.Params) (c : CfgRegs) (gap : Vector Half Config.gapSlots) (k : Nat) :
    patternMatches p c gap k = true ↔ ∀ i : Fin 3, i.val < p.nGaps → cfgDringTarget c k i.val = p.dringWildcard ∨
      ((gap[i].toNat : Int) - (cfgDringTarget c k i.val).toInt ≤ (cfgDringRange c k).toNat ∧
        (cfgDringTarget c k i.val).toInt - (gap[i].toNat : Int) ≤ (cfgDringRange c k).toNat) := by
  have htarget (i : Fin 3) : targetMatches p c gap k i = true ↔ (i.val < p.nGaps → cfgDringTarget c k i.val = p.dringWildcard ∨
      ((gap[i].toNat : Int) - (cfgDringTarget c k i.val).toInt ≤ (cfgDringRange c k).toNat ∧
        (cfgDringTarget c k i.val).toInt - (gap[i].toNat : Int) ≤ (cfgDringRange c k).toNat)) := by
    simp only [targetMatches, Bool.or_eq_true, decide_eq_true_eq]
    rw [gapMatches_iff, ← Nat.not_lt, ← imp_iff_not_or]
  simp only [patternMatches, Bool.and_eq_true, htarget, Fin.forall_fin_succ, IsEmpty.forall_iff, and_true, and_assoc]
  rfl

theorem dringContext_first {p : Config.Params} {c : CfgRegs} {gap : Vector Half Config.gapSlots} {k : Nat}
    (hk : k < dringPatterns p c) (hfits : patternMatches p c gap k = true) (hfirst : ∀ q < k, ¬ patternMatches p c gap q = true) :
    dringContext p c gap = BitVec.ofNat 8 k := by
  have hfind : (List.range (dringPatterns p c)).find? (patternMatches p c gap) = some k :=
    List.find?_range_eq_some.mpr ⟨hfits, List.mem_range.mpr hk, fun q hq => by simpa using hfirst q hq⟩
  rw [dringContext, hfind]

theorem dringContext_none {p : Config.Params} {c : CfgRegs} {gap : Vector Half Config.gapSlots}
    (hno : ∀ k < dringPatterns p c, ¬ patternMatches p c gap k = true) : dringContext p c gap = 0xFF := by
  have hfind : (List.range (dringPatterns p c)).find? (patternMatches p c gap) = none :=
    List.find?_eq_none.mpr fun k hk => hno k (List.mem_range.mp hk)
  rw [dringContext, hfind]

/-! ### Which word is a burst -/

theorem exec_burst (hi : isRingbegin i = true ∨ isRingoffhook i = true) (hs : LineReady s) (hm : s.mwi.st.isActive = false)
    (h : takesBurst s = true) : exec i s = .next (ringBurst s) := by
  have hbegin : ringbeginBody s = ringBurst s := if_pos h
  have hoff : ringoffhookBody s = ringBurst s := by
    rw [ringoffhookBody, mwiAbortIfActive_inactive hm]
    exact if_pos h
  obtain hi | hi := hi
  · have hwords : i = .hwRingbegin ∨ i = .fakeRingbegin := by
      cases i
      case hwRingbegin | fakeRingbegin => simp
      all_goals exact absurd hi Bool.false_ne_true
    rw [exec_ringbegin hwords hs, hbegin]
  · have hwords : i = .hwRingoffhook ∨ i = .fakeRingoffhook := by
      cases i
      case hwRingoffhook | fakeRingoffhook => simp
      all_goals exact absurd hi Bool.false_ne_true
    rw [exec_ringoffhook hwords hs, hoff]

theorem takesBurst_ringing (hst : s.line.st = .offered) (hdir : s.line.calldir = .inbound) (hoff : s.line.hook = false) :
    takesBurst s = true := by simp [takesBurst, hst, hdir, hoff]

theorem takesBurst_idle (hst : s.line.st = .idle) : takesBurst s = true := by simp [takesBurst, hst]

theorem ringBurst_next (h : s.line.st ≠ .idle) : ringBurst s = ringBurstNext s := if_neg (by simpa using h)

/-! ### A further burst (R145, R268) -/

/-- The gap since the last burst (R280). -/
def newGap (s : State) : Half := BitVec.ofNat 16 (min (s.line.now - s.rx.lastringT).toNat 65535)

/-- The gaps with the new one. -/
def gapsWithNew (s : State) : Vector Half 3 := s.rx.gap.setIfInBounds s.rx.ngap.toNat (newGap s)

/-- The receiver after an evaluation of these gaps (R282). -/
def evaluatedRx (gaps : Vector Half 3) (s : State) : CidRxRegs :=
  { s.rx with ctx := dringContext s.par s.cfg gaps, dringOn := false, dringDone := true, ngap := 0, gap := #v[0, 0, 0] }

/-- The receiver after a sampled burst (R268). -/
def sampledRx (s : State) : CidRxRegs :=
  if (s.rx.ngap + 1).toNat = s.par.nGaps then
    if s.rx.st = .waitDring then
      { evaluatedRx (gapsWithNew s) s with
        st := .decoding, rxlen := 0, dtmflen := 0, dtmfOpen := false, cidValid := false
        timeout := ticksOf s.par (cfgCidTimeoutMs s.cfg) }
    else evaluatedRx (gapsWithNew s) s
  else { s.rx with gap := gapsWithNew s, ngap := s.rx.ngap + 1 }

theorem cidrxNextRing_sampled (h : s.rx.dringOn = true) : cidrxNextRing s = { s with rx := sampledRx s } := by
  rw [cidrxNextRing, ifElse, if_pos h, sampledRx]
  by_cases hn : (s.rx.ngap + 1).toNat = s.par.nGaps
  · have hcap : ((captureGap s).rx.ngap.toNat == (captureGap s).par.nGaps) = true := beq_iff_eq.mpr hn
    rw [if_pos hn, onlyIf_true hcap]
    by_cases hst : s.rx.st = .waitDring
    · have hwait : ((dringEval (captureGap s)).rx.st == .waitDring) = true := beq_iff_eq.mpr hst
      rw [if_pos hst, onlyIf_true hwait]
      rfl
    · have hwait : ((dringEval (captureGap s)).rx.st == .waitDring) = false := beq_eq_false_iff_ne.mpr hst
      rw [if_neg hst, onlyIf_false hwait]
      rfl
  · have hcap : ((captureGap s).rx.ngap.toNat == (captureGap s).par.nGaps) = false := beq_eq_false_iff_ne.mpr hn
    rw [if_neg hn, onlyIf_false hcap]
    rfl

/-- The receiver after a further burst: sampled, or a running decode has failed (R268). -/
def nextRungRx (s : State) : CidRxRegs :=
  if s.rx.dringOn then sampledRx s
  else if s.rx.st = .decoding then
    { s.rx with
      st := .fail, dringOn := s.rx.dringOn || (deferDring s.cfg && dringCfg s.par s.cfg && !s.rx.dringDone) }
  else s.rx

theorem said_talk (ws : List ActionWord) (s : State) : Talk s (said ws s) :=
  ⟨rfl, rfl, rfl, rfl, rfl, rfl, rfl, rfl, rfl, rfl, rfl, rfl, List.prefix_append _ _, List.suffix_refl _⟩

theorem cidrxNextRing_unsampled (h : s.rx.dringOn = false) (hst : s.rx.st = .decoding) :
    cidrxNextRing s = raise .cidFail { s with rx := nextRungRx s } := by
  have hbody : cidrxNextRing s = cidConcluded (cidrxFail .cidFail s) := by
    rw [cidrxNextRing, ifElse, if_neg (by simp [h]), onlyIf_true (by simp [hst])]
  rw [hbody, cidConcluded, nextRungRx, if_neg (by simp [h]), if_pos hst, onlyIf]
  cases hd : deferDring s.cfg && dringCfg s.par s.cfg && !s.rx.dringDone
  · exact (if_neg (Bool.eq_false_iff.mp hd)).trans (by rw [Bool.or_false]; rfl)
  · exact (if_pos hd).trans (by rw [Bool.or_true]; rfl)

theorem cidrxNextRing_resting (h : s.rx.dringOn = false) (hst : s.rx.st ≠ .decoding) : cidrxNextRing s = s := by
  rw [cidrxNextRing, ifElse, if_neg (by simp [h]), onlyIf_false (by simpa using hst)]

theorem cidrxNextRing_talk (s : State) : Talk { s with rx := nextRungRx s } (cidrxNextRing s) := by
  cases hd : s.rx.dringOn
  · by_cases hst : s.rx.st = .decoding
    · rw [cidrxNextRing_unsampled hd hst]
      exact raise_talk _ _
    · rw [cidrxNextRing_resting hd hst, nextRungRx, if_neg (by simp [hd]), if_neg hst]
      exact .refl s
  · rw [cidrxNextRing_sampled hd, nextRungRx, if_pos hd]
    exact .refl _

theorem cidrxCheckResult_talk (s : State) :
    Talk (s.updRx fun r => { r with resultSent := r.resultSent || reports s }) (cidrxCheckResult s) := by
  rw [cidrxCheckResult_eq]
  exact said_talk _ _

/-- The registers after a further burst but for what the receiver makes of it (R145). -/
def burstCounted (s : State) : State :=
  { s with
    rx := { s.rx with ringcnt := countUp s.rx.ringcnt }
    line := { s.line with ringt := ticksOf s.par (cfgRingTimeoutMs s.cfg) } }

theorem ringBurstNext_eq (s : State) :
    ringBurstNext s = (cidrxCheckResult (cidrxNextRing (burstCounted s))).updRx fun r => { r with lastringT := s.line.now } := rfl

theorem sampledRx_ringcnt (s : State) : (sampledRx s).ringcnt = s.rx.ringcnt := by
  rw [sampledRx]
  split
  · split <;> rfl
  · rfl

theorem nextRungRx_ringcnt (s : State) : (nextRungRx s).ringcnt = s.rx.ringcnt := by
  rw [nextRungRx]
  split
  · exact sampledRx_ringcnt s
  · split <;> rfl

theorem countUp_byte (n : Byte) : countUp n = if n = 0xFF then 0xFF else n + 1 := by
  rw [countUp]
  split
  · next h => rw [h]; rfl
  · next h => exact (if_neg h).symm

/-! ### The first burst (R145, R268) -/

theorem Yields.out {p f : State → State} (h : Yields p f) (s : State) : s.env.out <+: (f s).env.out :=
  h.silent.out s ▸ (h.talk s).out

/-- The receiver prepared for the ring it has begun to count (R268). -/
def preparedRx (s : State) : CidRxRegs :=
  { s.rx with
    st := if s.rx.st = .settle ∨ s.rx.st = .decoding then .fail else s.rx.st
    ngap := 0, gap := #v[0, 0, 0], dringOn := dringCfg s.par s.cfg && !deferDring s.cfg, dringDone := false, ctx := 0xFF
    resultSent := false }

/-- The receiver after the first burst (R268). -/
def firstRungRx (s : State) : CidRxRegs :=
  if hasFeature s.cfg .cidRx ∧ cidStartOf s.cfg = .ring then
    if (preparedRx s).dringOn then { preparedRx s with st := .waitDring }
    else
      { preparedRx s with
        st := .decoding, rxlen := 0, dtmflen := 0, dtmfOpen := false, cidValid := false
        timeout := ticksOf s.par (cfgCidTimeoutMs s.cfg) }
  else preparedRx s

theorem prepared_yields :
    Yields (fun s => { s with line := { s.line with prering := false }, rx := preparedRx s })
      (fun s => s |> clearPrering
        |> onlyIf (fun s => s.rx.st == .settle || s.rx.st == .decoding) (cidrxFail .cidFail)
        |> State.updRx (fun r =>
            { r with ngap := 0, gap := #v[0, 0, 0], dringOn := false, dringDone := false, ctx := 0xFF, resultSent := false })
        |> onlyIf (fun s => dringCfg s.par s.cfg && !deferDring s.cfg) (State.updRx fun r => { r with dringOn := true })) := by
  have hclear : Silent clearPrering := fun _ _ _ _ _ => rfl
  have h := ((hclear.yields.then ((cidrxFail_yields .cidFail).onlyIf (c := fun s => s.rx.st == .settle || s.rx.st == .decoding)
    fun _ _ _ _ _ => rfl)).thenSilent (updRx_silent fun r =>
      { r with ngap := 0, gap := #v[0, 0, 0], dringOn := false, dringDone := false, ctx := 0xFF, resultSent := false })).then
    ((updRx_silent fun r => { r with dringOn := true }).yields.onlyIf
      (c := fun s => dringCfg s.par s.cfg && !deferDring s.cfg) fun _ _ _ _ _ => rfl)
  refine h.of_eq fun s => ?_
  by_cases hst : s.rx.st = .settle ∨ s.rx.st = .decoding <;> cases hd : dringCfg s.par s.cfg && !deferDring s.cfg <;>
    simp [onlyIf, clearPrering, preparedRx, State.updRx, State.updLine, hst, hd]

theorem cidrxFirstRing_yields :
    Yields (fun s => { s with line := { s.line with prering := false }, rx := firstRungRx s }) cidrxFirstRing := by
  have hbegin : Silent cidrxBegin := fun _ _ _ _ _ => rfl
  have hstart : Acts 0 _ _ := Acts.onlyIf (c := fun s => hasFeature s.cfg .cidRx && cidStartOf s.cfg == .ring)
    (fun _ _ _ _ _ => rfl) (Acts.ifElse (c := fun s => s.rx.dringOn) (fun _ _ _ _ _ => rfl)
      (updRx_silent fun r => { r with st := .waitDring }).acts hbegin.acts)
  refine (prepared_yields.thenSilent hstart.silent).of_eq fun s => ?_
  by_cases hf : hasFeature s.cfg .cidRx = true ∧ cidStartOf s.cfg = .ring
  · have hyes : (hasFeature s.cfg .cidRx && cidStartOf s.cfg == .ring) = true := by simp [hf]
    rw [onlyIf, firstRungRx, if_pos hf]
    refine (if_pos hyes).trans ?_
    cases hd : (preparedRx s).dringOn
    · rw [if_neg Bool.false_ne_true]
      exact if_neg (Bool.eq_false_iff.mp hd)
    · rw [if_pos rfl]
      exact if_pos hd
  · have hno : (hasFeature s.cfg .cidRx && cidStartOf s.cfg == .ring) = false := by simpa using hf
    rw [onlyIf, firstRungRx, if_neg hf]
    exact if_neg (Bool.eq_false_iff.mp hno)

/-- The registers of a line that begins to ring in, but for the receiver (R145). -/
def ringOpened (s : State) : State :=
  { s with
    line := { s.line.goneTo .offered with
      calldir := .inbound, ringing := true, curleg := none, ringt := ticksOf s.par (cfgRingTimeoutMs s.cfg) }
    banks := { s.banks with real := { s.banks.real with owned := true, owner := 0 } }
    rx := { s.rx with ringcnt := 1 } }

/-- `RINGBURST` from Idle up to `SPAWNSETUP`. -/
def ringOpen (s : State) : State :=
  s |> goTo .offered
    |> State.updLine (fun l => { l with calldir := .inbound, ringing := true, curleg := none })
    |> State.updBank .r (Bank.own 0)
    |> State.updRx (fun r => { r with ringcnt := 1 })
    |> State.updLine (fun l => { l with ringt := ticksOf s.par (cfgRingTimeoutMs s.cfg) })

theorem ringOpen_talk (s : State) : Talk (ringOpened s) (ringOpen s) := by
  have h := ((((goTo_acts .offered).thenSilent
    (updLine_silent fun l => { l with calldir := .inbound, ringing := true, curleg := none })).thenSilent
    (updBank_silent .r (Bank.own 0))).thenSilent (updRx_silent fun r => { r with ringcnt := 1 })).thenSilent
    (updLine_silent fun l => { l with ringt := ticksOf s.par (cfgRingTimeoutMs s.cfg) })
  exact (h.spoken s).toTalk

/-- `RINGBURST` from Idle with no message indication (R145). -/
theorem ringBurst_first (hst : s.line.st = .idle) (hm : s.mwi.st.isActive = false) :
    ringBurst s =
      (cidrxCheckResult (cidrxFirstRing (indicateLeg .r .spawnSetup (ringOpen s)))).updRx fun r => { r with lastringT := s.line.now } := by
  have hbody : ringBurst s = ringBurstFirst s := if_pos (by simp [hst])
  rw [hbody, ringBurstFirst, mwiAbortIfActive_inactive hm, ringOpen, cidrxOnRing, if_pos rfl]

theorem cidrxCheckResult_told (h : reports s = true) :
    Told (indWord (lineId s) 0 (.cidResult s.rx.cidValid s.rx.ctx)) s (cidrxCheckResult s) := by
  rw [cidrxCheckResult_eq, reportWords, if_pos h]
  exact ⟨_, rfl, List.mem_singleton_self _⟩

/-- The registers when the receiver has seen the first burst. -/
def ringSeen (s : State) : State :=
  { ringOpened s with
    line := { (ringOpened s).line with prering := false }
    rx := firstRungRx (ringOpened s) }

theorem ringSeen_talk (s : State) : Talk (ringSeen s) (cidrxFirstRing (indicateLeg .r .spawnSetup (ringOpen s))) :=
  (cidrxFirstRing_yields.silent.mapTalk ((ringOpen_talk s).trans (indicateLeg_talk .r .spawnSetup _))).trans
    (cidrxFirstRing_yields.talk _)

theorem ringSeen_told (s : State) :
    Told (indWord (lineId s) 0 .spawnSetup) s (cidrxFirstRing (indicateLeg .r .spawnSetup (ringOpen s))) := by
  have htold := indicateLeg_told .r .spawnSetup (ringOpen s)
  rw [(ringOpen_talk s).lineId] at htold
  exact (htold.before (cidrxFirstRing_yields.out _)).after (ringOpen_talk s).out

theorem firstRungRx_ringcnt (s : State) : (firstRungRx s).ringcnt = s.rx.ringcnt := by
  rw [firstRungRx]
  split
  · split <;> rfl
  · rfl

theorem firstRungRx_decoding (hrx : hasFeature s.cfg .cidRx = true) (hstart : cidStartOf s.cfg = .ring)
    (hd : hasFeature s.cfg .dring = false) :
    firstRungRx s =
      { preparedRx s with
        st := .decoding, rxlen := 0, dtmflen := 0, dtmfOpen := false, cidValid := false
        timeout := ticksOf s.par (cfgCidTimeoutMs s.cfg) } := by
  have hno : (preparedRx s).dringOn = false := by simp [preparedRx, dringCfg, hd]
  rw [firstRungRx, if_pos ⟨hrx, hstart⟩, if_neg (Bool.eq_false_iff.mp hno)]

theorem firstRungRx_off (hrx : hasFeature s.cfg .cidRx = false) : firstRungRx s = preparedRx s :=
  if_neg (by simp [hrx])

/-! ### Sampled bursts (R280, R282) -/

theorem ngap_succ (h : s.rx.ngap.toNat < 3) : (s.rx.ngap + 1).toNat = s.rx.ngap.toNat + 1 := by bv_omega

theorem sampledRx_more (h : s.rx.ngap.toNat < 3) (hn : s.rx.ngap.toNat + 1 ≠ s.par.nGaps) :
    sampledRx s = { s.rx with gap := gapsWithNew s, ngap := s.rx.ngap + 1 } := if_neg (by rw [ngap_succ h]; exact hn)

theorem sampledRx_last (h : s.rx.ngap.toNat < 3) (hn : s.rx.ngap.toNat + 1 = s.par.nGaps) :
    sampledRx s =
      if s.rx.st = .waitDring then
        { evaluatedRx (gapsWithNew s) s with
          st := .decoding, rxlen := 0, dtmflen := 0, dtmfOpen := false, cidValid := false
          timeout := ticksOf s.par (cfgCidTimeoutMs s.cfg) }
      else evaluatedRx (gapsWithNew s) s := if_pos (by rw [ngap_succ h]; exact hn)

/-- A burst that is sampled, with what the host is told of it. -/
theorem ringBurstNext_sampled (h : s.rx.dringOn = true) :
    ringBurstNext s =
      said (reportWords { burstCounted s with rx := sampledRx (burstCounted s) })
        { burstCounted s with
          rx := { sampledRx (burstCounted s) with
            resultSent := (sampledRx (burstCounted s)).resultSent || reports { burstCounted s with rx := sampledRx (burstCounted s) }
            lastringT := s.line.now } } := by
  rw [ringBurstNext_eq, cidrxNextRing_sampled (s := burstCounted s) h, cidrxCheckResult_eq]
  rfl

theorem reports_of_sampling (h : s.rx.dringOn = true) : reports s = false := by simp [reports, h]

/-- A burst after which the receiver does not report. -/
theorem ringBurstNext_quiet (h : s.rx.dringOn = true)
    (hno : reports { burstCounted s with rx := sampledRx (burstCounted s) } = false) :
    ringBurstNext s = { burstCounted s with rx := { sampledRx (burstCounted s) with lastringT := s.line.now } } := by
  rw [ringBurstNext_sampled h, reportWords, hno, if_neg Bool.false_ne_true, said_nil, Bool.or_false]

/-! ### `UP` on a ringing line (R285) -/

/-- The receiver's end, but for the report. -/
def finalizing (s : State) : State :=
  s |> onlyIf (fun s => cidPending s.rx.st) (cidrxFail .cidFail)
    |> onlyIf (fun s => s.rx.dringOn) dringEval
    |> State.updRx (fun r => { r with timeout := 0 })

theorem cidrxFinalize_eq (s : State) : cidrxFinalize s = onlyIf (fun s => !s.rx.resultSent) sendCidResult (finalizing s) := rfl

theorem finalizing_talk (hd : s.rx.dringOn = true) :
    Talk { s with
        rx := { evaluatedRx s.rx.gap s with st := if cidPending s.rx.st then .fail else s.rx.st, timeout := 0 } }
      (finalizing s) := by
  have hpend : Talk { s with rx := { s.rx with st := if cidPending s.rx.st then .fail else s.rx.st } }
      (onlyIf (fun s => cidPending s.rx.st) (cidrxFail .cidFail) s) := by
    cases hp : cidPending s.rx.st
    · rw [onlyIf_false hp, if_neg Bool.false_ne_true]
      exact .refl s
    · rw [onlyIf_true hp, if_pos rfl]
      exact raise_talk _ _
  have hon : (onlyIf (fun s => cidPending s.rx.st) (cidrxFail .cidFail) s).rx.dringOn = true := by rw [hpend.rx]; exact hd
  rw [finalizing, onlyIf_true hon]
  exact (dringEval_silent.mapTalk hpend).updRx fun r => { r with timeout := 0 }

theorem finalizedRx_of_sampling (hd : s.rx.dringOn = true) :
    finalizedRx s =
      { evaluatedRx s.rx.gap s with
        st := if s.rx.st = .settle ∨ s.rx.st = .decoding ∨ s.rx.st = .waitDring then .fail else s.rx.st
        timeout := 0, resultSent := true } := by
  have hpend : cidPending s.rx.st = true ↔ s.rx.st = .settle ∨ s.rx.st = .decoding ∨ s.rx.st = .waitDring := by
    simp [cidPending, or_assoc]
  simp only [finalizedRx, evaluatedRx, hd, hpend, if_pos, Bool.true_or]

theorem cidrxFinalize_told (hd : s.rx.dringOn = true) (hr : s.rx.resultSent = false) :
    Told (indWord (lineId s) 0 (.cidResult s.rx.cidValid (dringContext s.par s.cfg s.rx.gap))) s (cidrxFinalize s) := by
  have htalk := finalizing_talk hd
  have hsent : (finalizing s).rx.resultSent = false := by rw [htalk.rx]; exact hr
  have htold := indicateLeg_told .r (.cidResult (finalizing s).rx.cidValid (finalizing s).rx.ctx) (finalizing s)
  rw [htalk.lineId, htalk.rx] at htold
  rw [cidrxFinalize_eq, onlyIf_true (by rw [hsent]; rfl), sendCidResult, htalk.rx]
  exact htold.after htalk.out

/-- What an accepted answer leaves to the owner to hear (R285, R390). -/
theorem upAnswer_told (ha : AcceptingNext s) (hd : s.rx.dringOn = true) (hr : s.rx.resultSent = false) :
    Told (indWord (lineId s) 0 (.cidResult s.rx.cidValid (dringContext s.par s.cfg s.rx.gap))) s (upAnswer s) := by
  obtain ⟨v, hv⟩ : ∃ v, v = spoke (lrWord (lineId s) (realH s) (.setHook .offHook)) s := ⟨_, rfl⟩
  have htold : Told (indWord (lineId s) 0 (.cidResult s.rx.cidValid (dringContext s.par s.cfg s.rx.gap))) v (cidrxFinalize v) := by
    rw [hv]
    exact cidrxFinalize_told (s := spoke _ s) hd hr
  have hout : s.env.out <+: v.env.out := hv ▸ List.prefix_append _ _
  have hrest := ((updLine_silent fun l => { l with hook := true }).acts.thenEstablish (cidrxFinalize v)).out
  rw [upAnswer, lrRealCase_of_acceptingNext ha, ← hv]
  exact (htold.before hrest).after hout

end Sys2Proof.Machine

namespace Sys2Proof

open Sys2Proof.Machine

/-- Settles O59: the context of R282, a sampled burst, and the receiver's end at `UP`. -/
theorem distinctiveRing : Obligations.DistinctiveRing := by
  constructor
  · intro par c gap inUse fits
    exact ⟨fun p hp hfits hfirst => dringContext_first hp ((patternMatches_iff ..).mpr hfits) fun q hq hq' =>
        hfirst q hq ((patternMatches_iff ..).mp hq'),
      fun hno => dringContext_none fun p hp hp' => hno p hp ((patternMatches_iff ..).mp hp')⟩
  intro s i hd gap gaps evaluated burst
  refine ⟨fun hi hs hm hst hdir hoff => ?burst, fun hc ho hst hdir hoff ha => ?up⟩
  case burst =>
    have hidle : s.line.st ≠ .idle := by rw [hst]; decide
    rw [exec_burst hi hs hm (takesBurst_ringing hst hdir hoff), ringBurst_next hidle]
    have hburst (r : CidRxRegs) : burst r = { r with ringcnt := countUp s.rx.ringcnt, lastringT := s.line.now } := by
      rw [countUp_byte]
    have hnone (t : State) (h : t.env.out = s.env.out) : newWords s t = [] := newWords_eq (by rw [h, List.append_nil])
    refine ⟨_, rfl, ?_, fun hn hne => ?_, fun hn hlast hwait => ?_, fun hn hlast hrest hsent => ?_⟩
    · rw [ringBurstNext_sampled hd]
      rfl
    · have hrx := sampledRx_more (s := burstCounted s) hn hne
      rw [hburst, ringBurstNext_quiet hd (reports_of_sampling (by rw [hrx]; exact hd)), hrx]
      exact ⟨rfl, hnone _ rfl⟩
    · have hrx := (sampledRx_last (s := burstCounted s) hn hlast).trans (if_pos hwait)
      rw [hburst, ringBurstNext_quiet hd (reports_of_decoding (by rw [hrx])), hrx]
      exact ⟨rfl, hnone _ rfl⟩
    · have hwait : s.rx.st ≠ .waitDring := by obtain h | h | h := hrest <;> rw [h] <;> decide
      have hrx := (sampledRx_last (s := burstCounted s) hn hlast).trans (if_neg hwait)
      have hdue : reports { burstCounted s with rx := sampledRx (burstCounted s) } = true := by
        rw [hrx]
        obtain h | h | h := hrest <;>
          simp [reports, resultDue, burstCounted, evaluatedRx, hst, hdir, hoff, hsent, cidrxAtRest, h]
      rw [hburst, ringBurstNext_sampled hd, reportWords, if_pos hdue, hdue, hrx, Bool.or_true]
      exact ⟨rfl, newWords_said rfl⟩
  case up =>
    have h := upAnswer_accepted_frame ha
    rw [exec_hostUp_of_configured hc, hostUpBody_answer ho hst hdir hoff]
    exact ⟨_, rfl, h.rx.trans (finalizedRx_of_sampling hd), fun hsent => (upAnswer_told ha hd hsent).newWords⟩

/-- Settles O26: the first burst, a further one, and a burst refused. -/
theorem ringBursts : Obligations.RingBursts := by
  intro s i hi hs
  have hburst : isRingbegin i = true ∨ isRingoffhook i = true := by
    obtain rfl | rfl | rfl | rfl := hi
    exacts [.inl rfl, .inl rfl, .inr rfl, .inr rfl]
  refine ⟨fun hst hm => ?first, fun hst hdir hoff hm => ?next, fun hbegin hst hno => ?refused⟩
  case first =>
    rw [exec_burst hburst hs hm (takesBurst_idle hst), ringBurst_first hst hm]
    have hseen := ringSeen_talk s
    have hchecked := cidrxCheckResult_talk (cidrxFirstRing (indicateLeg .r .spawnSetup (ringOpen s)))
    have hspawn := ringSeen_told s
    obtain ⟨v, hv⟩ : ∃ v, v = cidrxFirstRing (indicateLeg .r .spawnSetup (ringOpen s)) := ⟨_, rfl⟩
    rw [← hv] at hseen hchecked hspawn ⊢
    have hrx : (cidrxCheckResult v).rx =
        { firstRungRx (ringOpened s) with resultSent := (firstRungRx (ringOpened s)).resultSent || reports v } :=
      hchecked.rx.trans (by rw [State.updRx_rx, hseen.rx]; rfl)
    have hline : (ringSeen s).line =
        { s.line with
          st := .offered, tone := .none, calldir := .inbound, ringing := true, curleg := none, prering := false
          ringt := ticksOf s.par (cfgRingTimeoutMs s.cfg) } := by
      simp [ringSeen, ringOpened, LineRegs.goneTo, hst]
    refine ⟨_, rfl, hchecked.line.trans (hseen.line.trans hline), hchecked.banks.trans hseen.banks, ?_, rfl,
      fun hf hstart hd => ?_, fun hf hd hrest hoff => ?_, ?_, hchecked.conf.trans hseen.conf, hchecked.tx.trans hseen.tx,
      hchecked.mwi.trans hseen.mwi, hchecked.cfg.trans hseen.cfg, .of_mem (hchecked.mem.trans hseen.mem),
      hchecked.events.trans hseen.events, hchecked.frames.trans hseen.frames⟩
    · exact (congrArg CidRxRegs.ringcnt hrx).trans (firstRungRx_ringcnt _)
    · rw [State.updRx_rx, hrx, firstRungRx_decoding (s := ringOpened s) hf hstart hd]
      exact ⟨rfl, rfl, rfl⟩
    · have hrxoff : v.rx = preparedRx (ringOpened s) := hseen.rx.trans (firstRungRx_off hf)
      have hdue : reports v = true := by
        simp [reports, resultDue, hseen.line, hline, hoff, hrxoff, preparedRx, ringOpened, hrest, cidrxAtRest, dringCfg, hd]
      refine ⟨?_, ?_⟩
      · rw [State.updRx_rx, hrx, hdue, Bool.or_true]
      · have htold := cidrxCheckResult_told hdue
        rw [hseen.lineId, hrxoff] at htold
        exact (htold.after hseen.out).newWords
    · exact (hspawn.before hchecked.out).newWords
  case next =>
    have hidle : s.line.st ≠ .idle := by rw [hst]; decide
    rw [exec_burst hburst hs hm (takesBurst_ringing hst hdir hoff), ringBurst_next hidle, ringBurstNext_eq]
    have hrung := cidrxNextRing_talk (burstCounted s)
    have hchecked := cidrxCheckResult_talk (cidrxNextRing (burstCounted s))
    refine ⟨_, rfl, hchecked.line.trans hrung.line, ?_, rfl, hchecked.banks.trans hrung.banks, hchecked.conf.trans hrung.conf,
      hchecked.tx.trans hrung.tx, hchecked.mwi.trans hrung.mwi, hchecked.cfg.trans hrung.cfg, .of_mem (hchecked.mem.trans hrung.mem),
      hchecked.events.trans hrung.events, hchecked.frames.trans hrung.frames⟩
    rw [← countUp_byte]
    exact (congrArg CidRxRegs.ringcnt hchecked.rx).trans ((congrArg CidRxRegs.ringcnt hrung.rx).trans (nextRungRx_ringcnt _))
  case refused =>
    have hwords : i = .hwRingbegin ∨ i = .fakeRingbegin := by
      obtain rfl | rfl | rfl | rfl := hi
      exacts [.inl rfl, .inr rfl, absurd hbegin Bool.false_ne_true, absurd hbegin Bool.false_ne_true]
    rw [exec_ringbegin hwords hs]
    refine congrArg _ (if_neg ?_)
    simpa [takesBurst, hst, and_assoc] using hno

end Sys2Proof

end

/-! PROOFS. The parts of a `TICK` (R360) where they only count, and where they do nothing. -/

section

namespace Sys2Proof.Machine

variable {s t u : State} {i : Instr} {j k : Nat}

/-! ### The counters (R360 parts 1 to 5, R369) -/

theorem countDown_eq {w : Nat} (v : BitVec w) : countDown v = if v = 0 then 0 else v - 1 := rfl

theorem countDown_eq_zero (v : Half) : countDown v = 0 ↔ v = 0 ∨ v = 1 := by
  rw [countDown_eq]
  split
  · next h => simp [h]
  · next h =>
    constructor
    · intro h1
      exact .inr (by bv_omega)
    · rintro (h0 | h1)
      · exact absurd h0 h
      · rw [h1]; rfl

/-- The line registers after the counters of parts 1 to 5. -/
def LineRegs.counted (p : Config.Params) (l : LineRegs) : LineRegs :=
  { l with
    now := l.now + BitVec.ofNat 32 p.tickMs
    ringt := if l.st = .offered ∧ l.ringing = true ∧ l.ringt ≠ 0 then l.ringt - 1 else l.ringt
    postwin := if l.postwin = 0 then 0 else l.postwin - 1
    cwrepeat := if l.cwrepeat = 0 then 0 else l.cwrepeat - 1 }

/-- The housekeeping counter after a tick (R369). -/
def LineRegs.housekept (p : Config.Params) (l : LineRegs) : LineRegs :=
  { l with hkcnt := if l.hkcnt ≤ 1 then BitVec.ofNat 8 (p.ticks p.monitorTimeoutMs) else l.hkcnt - 1 }

theorem LineRegs.housekept_counted (p : Config.Params) (l : LineRegs) : (l.counted p).housekept p = l.ticked p := rfl

theorem guardTick_of_notReleasing (h : s.line.st ≠ .releasing) : guardTick s = s := onlyIf_false (by simp [h])

theorem ringTick_counts (h : s.line.ringt ≠ 1 ∨ s.line.st ≠ .offered ∨ s.line.ringing = false) :
    ringTick s = s.updLine fun l =>
      { l with ringt := if l.st = .offered ∧ l.ringing = true ∧ l.ringt ≠ 0 then l.ringt - 1 else l.ringt } := by
  by_cases hring : s.line.st = .offered ∧ s.line.ringing = true ∧ s.line.ringt ≠ 0
  · obtain ⟨hst, hringing, hne⟩ := hring
    have hcount : ¬ countDown s.line.ringt = 0 := by
      rw [countDown_eq_zero]
      rintro (h0 | h1)
      · exact hne h0
      · obtain h | h | h := h
        · exact h h1
        · exact h hst
        · exact absurd (h.symm.trans hringing) (by decide)
    have hb : (s.line.ringt != 0) = true := bne_iff_ne.mpr hne
    rw [ringTick, onlyIf_true (by simp only [hst, hringing, hb]; rfl), onlyIf_false (by simpa using hcount)]
    simp only [State.updLine, if_pos (And.intro hst (And.intro hringing hne)), countDown_eq, if_neg hne]
  · rw [ringTick, onlyIf_false (by simpa [and_assoc] using hring)]
    simp only [State.updLine, if_neg hring]

theorem cwrepeatTick_counts (h : s.line.cwrepeat ≠ 1 ∨ s.banks.cw.owned = false ∨ s.line.st ≠ .active ∨ s.line.hook = false) :
    cwrepeatTick s = s.updLine fun l => { l with cwrepeat := if l.cwrepeat = 0 then 0 else l.cwrepeat - 1 } := by
  by_cases h0 : s.line.cwrepeat = 0
  · rw [cwrepeatTick, onlyIf_false (by simp [h0])]
    simp only [State.updLine, h0, if_true]
    rw [← h0]
  · have hno : ¬ (countDown s.line.cwrepeat = 0 ∧ s.banks.cw.owned = true ∧ s.line.st = .active ∧ s.line.hook = true) := by
      rintro ⟨hcount, how, hst, hoff⟩
      obtain h1 := (countDown_eq_zero _).mp hcount |>.resolve_left h0
      simp_all
    have hb : (s.line.cwrepeat != 0) = true := bne_iff_ne.mpr h0
    rw [cwrepeatTick, onlyIf_true hb, onlyIf_false (by simpa [and_assoc] using hno)]
    rfl

theorem postwinTick_eq (s : State) :
    postwinTick s = s.updLine fun l => { l with postwin := if l.postwin = 0 then 0 else l.postwin - 1 } := rfl

/-- On a counting line the first five parts only count. -/
theorem lineParts_counting (h : CountingLine s) :
    cwrepeatTick (postwinTick (ringTick (guardTick (advanceNow s)))) = { s with line := s.line.counted s.par } := by
  rw [guardTick_of_notReleasing (s := advanceNow s) h.notReleasing, ringTick_counts (s := advanceNow s) h.noRingOut,
    postwinTick_eq, cwrepeatTick_counts (by exact h.noAlert)]
  rfl

theorem housekeepingTick_eq (s : State) :
    housekeepingTick s =
      if s.line.hkcnt ≤ 1 then mwiTryStart (s.updLine (LineRegs.housekept s.par)) else s.updLine (LineRegs.housekept s.par) := by
  have hzero : countDown s.line.hkcnt = 0 ↔ s.line.hkcnt ≤ 1 := by
    rw [countDown_eq, BitVec.le_def]
    split
    · next h0 => simp [h0]
    · next h0 =>
      constructor
      · intro h1
        bv_omega
      · intro h1
        bv_omega
  rw [housekeepingTick]
  by_cases hle : s.line.hkcnt ≤ 1
  · rw [onlyIf_true (by simpa using hzero.mpr hle), if_pos hle]
    simp only [State.updLine, LineRegs.housekept, if_pos hle]
    rfl
  · rw [onlyIf_false (by simpa using mt hzero.mp hle), if_neg hle]
    have hne : s.line.hkcnt ≠ 0 := fun h0 => hle (by rw [h0]; decide)
    simp only [State.updLine, LineRegs.housekept, if_neg hle, countDown_eq, if_neg hne]

theorem mwiTryStart_no (h : mwiMayStart s = false) : mwiTryStart s = s := onlyIf_false h

theorem housekeepingTick_quiet (h : s.line.hkcnt ≤ 1 → mwiMayStart s = false) :
    housekeepingTick s = s.updLine (LineRegs.housekept s.par) := by
  rw [housekeepingTick_eq]
  split
  · next hle => exact mwiTryStart_no (h hle)
  · rfl

/-! ### Parts that do nothing -/

theorem spillTick_idle {txready : Bool} (h : s.tx.go = false ∨ txready = false) : spillTick txready s = s :=
  onlyIf_false (by obtain h | h := h <;> simp [h])

theorem cidrxTick_calm (h : CalmRx s) : cidrxTick false s = s := by
  have hcase : cidrxTickCase false s = s := by rw [cidrxTickCase, h.off]; rfl
  have hdown : cidrxCountdown s = s := onlyIf_false (by simp [h.noTimeout])
  rw [cidrxTick, hcase, hdown, cidrxCheckResult_of_quiet]
  obtain hdue | hdring := h.noneDue
  · simp [reports, hdue]
  · exact reports_of_sampling hdring

theorem mwiTick_waits (h : MwiWaits s) : mwiTick s = s := by
  rw [mwiTick]
  obtain ⟨hst, -⟩ | hst | ⟨hst, hkind⟩ := h <;> rw [hst]
  exact onlyIf_false (by simpa using hkind)

theorem mwiMayStart_of_waits (h : MwiWaits s) : mwiMayStart s = false := by
  obtain ⟨hst, hp | hp | hp⟩ | hst | ⟨hst, hkind⟩ := h <;> simp [mwiMayStart, mwiQuiet, *]

theorem CalmMwi.waits (h : CalmMwi s) : MwiWaits s := .inl ⟨h.null, .inl h.noneWaiting⟩

/-! ### A `TICK` on a counting line -/

theorem tickParts_counting (h : CountingLine s) (rxvalid txready : Bool) :
    tickParts rxvalid txready s =
      housekeepingTick (mwiTick (cidrxTick rxvalid (spillTick txready { s with line := s.line.counted s.par }))) := by
  rw [tickParts, lineParts_counting h]

/-- The state in which the parts of a tick begin: the frame has been received. -/
def received (rxvalid : Bool) (s : State) : State := if rxvalid then receiveFrame s else s

theorem exec_tick (hc : s.line.configured = true) (rxvalid txready : Bool) :
    exec (.timeTick rxvalid txready) s = .next (tickParts rxvalid txready (received rxvalid s)) := by
  refine congrArg Host.Outcome.next ((tickBody_configured hc rxvalid txready).trans ?_)
  rw [received, onlyIf]

theorem CountingLine.received (h : CountingLine s) (rxvalid : Bool) : CountingLine (received rxvalid s) := by
  cases rxvalid
  · exact h
  · exact ⟨h.configured, h.notReleasing, h.noRingOut, h.noAlert⟩

theorem countingLine_of_idle (hc : s.line.configured = true) (hst : s.line.st = .idle) : CountingLine s :=
  ⟨hc, by simp [hst], by simp [hst], by simp [hst]⟩

theorem CalmRx.counted (h : CalmRx s) : CalmRx { s with line := s.line.counted s.par } := ⟨h.off, h.noTimeout, h.noneDue⟩

theorem MwiWaits.counted (h : MwiWaits s) : MwiWaits { s with line := s.line.counted s.par } := h

/-- A tick without a frame to send or to receive and with nothing due only counts. -/
theorem exec_tick_counts (h : CountingLine s) {txready : Bool} (hgo : s.tx.go = false ∨ txready = false) (hrx : CalmRx s)
    (hm : MwiWaits s) : exec (.timeTick false txready) s = .next { s with line := s.line.ticked s.par } := by
  rw [exec_tick h.configured, received, if_neg Bool.false_ne_true, tickParts_counting h,
    spillTick_idle (s := { s with line := s.line.counted s.par }) hgo, cidrxTick_calm hrx.counted, mwiTick_waits hm.counted, housekeepingTick_quiet fun _ => mwiMayStart_of_waits hm.counted]
  rfl

end Sys2Proof.Machine

end

/-! PROOFS. What the spill, the Caller-ID receiver, the MWI engine and reconciliation leave of the calls: `Aside s t`. -/

section

namespace Sys2Proof.Machine

variable {s t u : State} {i : Instr} {j k : Nat}

/-! ### Aside from the calls -/

/-- The line registers without those that no call depends on. -/
def LineRegs.callPart (l : LineRegs) : LineRegs :=
  { l with pol := false, prering := false, postwin := 0, cwrepeat := 0, hkcnt := 0, inalarm := false, configured := false }

/-- A bank without its notifications, its linear mode and its shadow. -/
def Bank.callPart (b : Bank) : Bank := { b with pend := 0, linear := false, cur := descNone }

/-- `t` has the calls of `s`; the invariants of the spill and of the MWI engine are kept. -/
structure Aside (s t : State) : Prop where
  par : t.par = s.par
  line : t.line.callPart = s.line.callPart
  cwrepeat : s.line.st = .idle ∨ s.line.st = .releasing → s.line.cwrepeat = 0 → t.line.cwrepeat = 0
  banks : ∀ x, (t.bank x).callPart = (s.bank x).callPart
  free : ∀ x, x ≠ .r → s.bank x = Bank.empty → t.bank x = Bank.empty
  spill : SpillInv s → SpillInv t
  mwi : MwiInv s → MwiInv t

theorem Aside.refl (s : State) : Aside s s := ⟨rfl, rfl, fun _ => id, fun _ => rfl, fun _ _ => id, id, id⟩

theorem Aside.st (h : Aside s t) : t.line.st = s.line.st := (congrArg LineRegs.st h.line :)
theorem Aside.hook (h : Aside s t) : t.line.hook = s.line.hook := (congrArg LineRegs.hook h.line :)
theorem Aside.ringing (h : Aside s t) : t.line.ringing = s.line.ringing := (congrArg LineRegs.ringing h.line :)
theorem Aside.ringt (h : Aside s t) : t.line.ringt = s.line.ringt := (congrArg LineRegs.ringt h.line :)
theorem Aside.tone (h : Aside s t) : t.line.tone = s.line.tone := (congrArg LineRegs.tone h.line :)
theorem Aside.calldir (h : Aside s t) : t.line.calldir = s.line.calldir := (congrArg LineRegs.calldir h.line :)
theorem Aside.curleg (h : Aside s t) : t.line.curleg = s.line.curleg := (congrArg LineRegs.curleg h.line :)
theorem Aside.answered (h : Aside s t) : t.line.answered = s.line.answered := (congrArg LineRegs.answered h.line :)
theorem Aside.flashV (h : Aside s t) : t.line.flashV = s.line.flashV := (congrArg LineRegs.flashV h.line :)
theorem Aside.dialPending (h : Aside s t) : t.line.dialPending = s.line.dialPending := (congrArg LineRegs.dialPending h.line :)
theorem Aside.dialing (h : Aside s t) : t.line.dialing = s.line.dialing := (congrArg LineRegs.dialing h.line :)
theorem Aside.guardUntil (h : Aside s t) : t.line.guardUntil = s.line.guardUntil := (congrArg LineRegs.guardUntil h.line :)
theorem Aside.now (h : Aside s t) : t.line.now = s.line.now := (congrArg LineRegs.now h.line :)
theorem Aside.alloc (h : Aside s t) (x : Leg) : (t.bank x).alloc = (s.bank x).alloc := (congrArg Bank.alloc (h.banks x) :)
theorem Aside.res (h : Aside s t) (x : Leg) : (t.bank x).res = (s.bank x).res := (congrArg Bank.res (h.banks x) :)
theorem Aside.owned (h : Aside s t) (x : Leg) : (t.bank x).owned = (s.bank x).owned := (congrArg Bank.owned (h.banks x) :)
theorem Aside.owner (h : Aside s t) (x : Leg) : (t.bank x).owner = (s.bank x).owner := (congrArg Bank.owner (h.banks x) :)
theorem Aside.in3way (h : Aside s t) (x : Leg) : (t.bank x).in3way = (s.bank x).in3way := (congrArg Bank.in3way (h.banks x) :)

theorem Aside.trans (h : Aside s t) (h' : Aside t u) : Aside s u where
  par := h'.par.trans h.par
  line := h'.line.trans h.line
  cwrepeat hst h0 := h'.cwrepeat (h.st ▸ hst) (h.cwrepeat hst h0)
  banks x := (h'.banks x).trans (h.banks x)
  free x hx he := h'.free x hx (h.free x hx he)
  spill hs := h'.spill (h.spill hs)
  mwi hs := h'.mwi (h.mwi hs)

theorem Aside.onlyIf {c : State → Bool} {f : State → State} (h : c s = true → Aside s (f s)) : Aside s (onlyIf c f s) :=
  onlyIf_cases (P := Aside s) h fun _ => .refl s

theorem Aside.ifElse {c : State → Bool} {f g : State → State} (hf : c s = true → Aside s (f s))
    (hg : c s = false → Aside s (g s)) : Aside s (ifElse c f g s) := ifElse_cases (P := Aside s) hf hg

/-! ### What keeps the invariants of the spill and of the MWI engine -/

theorem SpillInv.of_same (h : SpillInv s) (hpar : t.par = s.par) (htx : t.tx = s.tx) (hsusp : t.conf.confSusp = s.conf.confSusp)
    (hlin : t.banks.real.linear = s.banks.real.linear) : SpillInv t := by
  obtain ⟨h1, h2, h3, h4, h5, h6, h7⟩ := h
  constructor <;> simpa only [hpar, htx, hsusp, hlin]

/-- Without a spill and a suspension its invariant holds. -/
theorem spillInv_of_none (hpar : t.par.ok) (htx : t.tx = SpillRegs.reset) (hsusp : t.conf.confSusp = false) : SpillInv t where
  par := hpar
  absent _ := by rw [htx]; exact ⟨rfl, rfl, rfl⟩
  unread h := absurd (by rw [htx]; rfl) h
  fits := by rw [htx]; exact Nat.zero_le _
  suspended := by rw [htx, hsusp]; rfl
  saved h := by rw [htx] at h; cases h
  companded h := by rw [htx] at h; cases h

theorem MwiInv.of_same (h : MwiInv s) (hst : t.line.st = s.line.st) (hkind : t.tx.kind = s.tx.kind)
    (hmwi : t.mwi.st = s.mwi.st) : MwiInv t :=
  ⟨by rw [hst, hmwi]; exact h.idle, by rw [hkind, hmwi]; exact h.spill⟩

/-- What changes neither spill, suspension, Real's mode nor the MWI engine's state keeps both invariants. -/
theorem aside_of_same (hpar : t.par = s.par) (hline : t.line.callPart = s.line.callPart)
    (hcw : s.line.st = .idle ∨ s.line.st = .releasing → s.line.cwrepeat = 0 → t.line.cwrepeat = 0)
    (hbanks : ∀ x, (t.bank x).callPart = (s.bank x).callPart)
    (hfree : ∀ x, x ≠ .r → s.bank x = Bank.empty → t.bank x = Bank.empty) (htx : t.tx = s.tx)
    (hsusp : t.conf.confSusp = s.conf.confSusp) (hlin : t.banks.real.linear = s.banks.real.linear) (hmwi : t.mwi.st = s.mwi.st) :
    Aside s t :=
  ⟨hpar, hline, hcw, hbanks, hfree, fun h => h.of_same hpar htx hsusp hlin,
    fun h => h.of_same (congrArg LineRegs.st hline :) (by rw [htx]) hmwi⟩

theorem Talk.aside (h : Talk s t) : Aside s t :=
  aside_of_same h.par (by rw [h.line]) (fun _ => by rw [h.line]; exact id) (fun x => by rw [h.bank])
    (fun x _ => by rw [h.bank]; exact id) h.tx (by rw [h.conf]) (by rw [h.banks]) (by rw [h.mwi])

theorem Passes.aside (h : Passes k s t) : Aside s t where
  par := h.par
  line := by rw [h.line]
  cwrepeat _ := by rw [h.line]; exact id
  banks x := (congrArg (fun b => { b with pend := 0, linear := false }) (h.banks x).logical :)
  free x _ he := by rw [(h.banks x).free (by rw [he]; rfl), he]
  spill hs := hs.of_same h.par h.tx (congrArg ConfRegs.confSusp h.conf :) (congrArg Bank.linear (h.banks .r).logical :)
  mwi hs := hs.of_same (by rw [h.line]) (by rw [h.tx]) (by rw [h.mwi])

theorem Acts.aside {p f : State → State} (h : Acts k p f) (hp : Aside s (p s)) : Aside s (f s) :=
  hp.trans (h.spoken s).toTalk.aside

/-- The line registers that no call depends on may change, but for a repeat timer that starts on a line without a call. -/
theorem updLine_aside {f : LineRegs → LineRegs} (h : (f s.line).callPart = s.line.callPart)
    (hcw : s.line.st = .idle ∨ s.line.st = .releasing → s.line.cwrepeat = 0 → (f s.line).cwrepeat = 0) :
    Aside s (s.updLine f) :=
  aside_of_same rfl h hcw (fun _ => rfl) (fun _ _ => id) rfl rfl rfl rfl

theorem updBank_aside {x : Leg} {f : Bank → Bank} (hcall : (f (s.bank x)).callPart = (s.bank x).callPart)
    (hlin : (f (s.bank x)).linear = (s.bank x).linear) (hfree : x ≠ .r → f Bank.empty = Bank.empty) :
    Aside s (s.updBank x f) := by
  refine aside_of_same rfl rfl (fun _ => id) (fun y => ?_) (fun y hy he => ?_) rfl rfl ?_ rfl
  · by_cases hxy : y = x
    · subst hxy; rw [State.bank_updBank_same]; exact hcall
    · rw [State.bank_updBank_other _ hxy]
  · by_cases hxy : y = x
    · subst hxy; rw [State.bank_updBank_same, he]; exact hfree hy
    · rw [State.bank_updBank_other _ hxy]; exact he
  · cases x
    case r => exact hlin
    all_goals rfl

/-- The MWI engine moves: to no activity but on an Idle line, and out of SendSpill only without an MWI spill. -/
theorem updMwi_aside {f : MwiRegs → MwiRegs}
    (hidle : (f s.mwi).st.isActive = true → s.mwi.st.isActive = true ∨ s.line.st = .idle)
    (hspill : s.tx.kind = .mwi → s.mwi.st = .sendSpill → (f s.mwi).st = .sendSpill) : Aside s (s.updMwi f) where
  par := rfl
  line := rfl
  cwrepeat _ := id
  banks _ := rfl
  free _ _ := id
  spill hs := hs.of_same rfl rfl rfl rfl
  mwi hs := ⟨fun ha => (hidle ha).elim hs.idle id, fun hk => hspill hk (hs.spill hk)⟩

/-! ### The receiver -/

/-- `t` is `s` but for the receiver, `PRERING`, the buffers and what was said. -/
structure Receives (s t : State) : Prop where
  par : t.par = s.par
  line : t.line = { s.line with prering := t.line.prering }
  banks : t.banks = s.banks
  conf : t.conf = s.conf
  tx : t.tx = s.tx
  mwi : t.mwi = s.mwi

theorem Receives.refl (s : State) : Receives s s := ⟨rfl, rfl, rfl, rfl, rfl, rfl⟩

theorem Receives.trans (h : Receives s t) (h' : Receives t u) : Receives s u :=
  ⟨h'.par.trans h.par, h'.line.trans (by rw [h.line]), h'.banks.trans h.banks, h'.conf.trans h.conf, h'.tx.trans h.tx,
    h'.mwi.trans h.mwi⟩

theorem Receives.aside (h : Receives s t) : Aside s t :=
  aside_of_same h.par (by rw [h.line]; rfl) (fun _ => by rw [h.line]; exact id)
    (fun x => by rw [State.bank, h.banks]; rfl) (fun x _ he => by rw [State.bank, h.banks]; exact he) h.tx (by rw [h.conf])
    (by rw [h.banks]) (by rw [h.mwi])

theorem Talk.receives (h : Talk s t) : Receives s t := ⟨h.par, by rw [h.line], h.banks, h.conf, h.tx, h.mwi⟩

theorem Receives.onlyIf {c : State → Bool} {f : State → State} (h : Receives s (f s)) : Receives s (onlyIf c f s) :=
  onlyIf_cases (P := Receives s) (fun _ => h) fun _ => .refl s

theorem Receives.ifElse {c : State → Bool} {f g : State → State} (hf : Receives s (f s)) (hg : Receives s (g s)) :
    Receives s (ifElse c f g s) := ifElse_cases (P := Receives s) (fun _ => hf) fun _ => hg

theorem updRx_receives (f : CidRxRegs → CidRxRegs) (s : State) : Receives s (s.updRx f) := ⟨rfl, rfl, rfl, rfl, rfl, rfl⟩

theorem wr_receives (sp : Space) (a : Nat) (bs : List Byte) (s : State) : Receives s (wr sp a bs s) :=
  ⟨rfl, rfl, rfl, rfl, rfl, rfl⟩

theorem cidrxReset_receives (s : State) : Receives s (cidrxReset s) := updRx_receives _ s

theorem clearPrering_receives (s : State) : Receives s (clearPrering s) := ⟨rfl, rfl, rfl, rfl, rfl, rfl⟩

theorem cidrxBegin_receives (s : State) : Receives s (cidrxBegin s) := updRx_receives _ s

theorem cidrxFail_receives (e : ErrCode) (s : State) : Receives s (cidrxFail e s) :=
  (updRx_receives _ s).trans (raise_talk e _).receives

theorem cidConcluded_receives (s : State) : Receives s (cidConcluded s) := .onlyIf (updRx_receives _ s)

theorem concludeIfOffered_receives (s : State) : Receives s (concludeIfOffered s) := .onlyIf (cidConcluded_receives s)

theorem cidrxCommit_receives (num name : List Byte) (s : State) : Receives s (cidrxCommit num name s) :=
  ⟨rfl, rfl, rfl, rfl, rfl, rfl⟩

theorem dringEval_receives (s : State) : Receives s (dringEval s) := updRx_receives _ s

theorem sendCidResult_receives (s : State) : Receives s (sendCidResult s) :=
  (emit_talk _ s).receives.trans (updRx_receives _ _)

theorem cidrxCheckResult_receives (s : State) : Receives s (cidrxCheckResult s) := .onlyIf (sendCidResult_receives s)

theorem cidrxFinalize_receives (s : State) : Receives s (cidrxFinalize s) :=
  (Receives.onlyIf (cidrxFail_receives _ s)).trans <| (Receives.onlyIf (dringEval_receives _)).trans <|
    (updRx_receives _ _).trans (.onlyIf (sendCidResult_receives _))

theorem cidrxFirstRing_receives (s : State) : Receives s (cidrxFirstRing s) :=
  (clearPrering_receives s).trans <| (Receives.onlyIf (cidrxFail_receives _ _)).trans <| (updRx_receives _ _).trans <|
    (Receives.onlyIf (updRx_receives _ _)).trans (.onlyIf (.ifElse (updRx_receives _ _) (cidrxBegin_receives _)))

theorem cidrxNextRing_receives (s : State) : Receives s (cidrxNextRing s) :=
  .ifElse ((updRx_receives _ s).trans (.onlyIf ((dringEval_receives _).trans (.onlyIf (cidrxBegin_receives _)))))
    (.onlyIf ((cidrxFail_receives _ s).trans (cidConcluded_receives _)))

theorem cidrxOnRing_receives (first : Bool) (s : State) : Receives s (cidrxOnRing first s) := by
  cases first
  case false => exact (cidrxNextRing_receives s).trans (cidrxCheckResult_receives _)
  case true => exact (cidrxFirstRing_receives s).trans (cidrxCheckResult_receives _)

theorem cidrxOnPolarity_receives (s : State) : Receives s (cidrxOnPolarity s) := ⟨rfl, rfl, rfl, rfl, rfl, rfl⟩

theorem appendDigit_receives (d : Byte) (s : State) : Receives s (appendDigit d s) := .onlyIf ⟨rfl, rfl, rfl, rfl, rfl, rfl⟩

theorem cidrxDtmf_receives (d : Byte) (s : State) : Receives s (cidrxDtmf d s) := by
  refine Receives.trans (.ifElse (.onlyIf (updRx_receives _ s)) (.ifElse ?_ (.ifElse (appendDigit_receives d s) ?_)))
    (cidrxCheckResult_receives _)
  · exact (cidrxCommit_receives _ _ s).trans (concludeIfOffered_receives _)
  · exact (cidrxFail_receives _ s).trans (concludeIfOffered_receives _)

theorem cidrxFeed_receives (s : State) : Receives s (cidrxFeed s) := by
  unfold cidrxFeed
  dsimp only
  split
  · exact (cidrxFail_receives _ s).trans (concludeIfOffered_receives _)
  · refine Receives.trans ((wr_receives .rxacc s.rx.rxlen.toNat (rxFrame s) s).trans
      (updRx_receives (fun r => { r with rxlen := r.rxlen + BitVec.ofNat 16 s.par.codec.frameSamples }) _)) ?_
    split
    · exact .refl _
    · exact (cidrxFail_receives _ _).trans (concludeIfOffered_receives _)
    · exact (cidrxCommit_receives _ _ _).trans (concludeIfOffered_receives _)

theorem energyWatch_receives (s : State) : Receives s (energyWatch s) := .onlyIf ⟨rfl, rfl, rfl, rfl, rfl, rfl⟩

theorem settleTick_receives (s : State) : Receives s (settleTick s) :=
  (updRx_receives _ s).trans (.onlyIf (cidrxBegin_receives _))

theorem cidrxTickCase_receives (rxvalid : Bool) (s : State) : Receives s (cidrxTickCase rxvalid s) := by
  unfold cidrxTickCase
  cases s.rx.st
  case off => dsimp only; split; exacts [energyWatch_receives s, .refl s]
  case settle => exact settleTick_receives s
  case decoding => dsimp only; split; exacts [cidrxFeed_receives s, .refl s]
  all_goals exact .refl s

theorem cidrxExpire_receives (s : State) : Receives s (cidrxExpire s) :=
  (Receives.onlyIf ((cidrxFail_receives _ s).trans (concludeIfOffered_receives _))).trans
    (.onlyIf ((cidrxReset_receives _).trans (clearPrering_receives _)))

theorem cidrxCountdown_receives (s : State) : Receives s (cidrxCountdown s) :=
  .onlyIf ((updRx_receives _ s).trans (.onlyIf (cidrxExpire_receives _)))

theorem cidrxTick_receives (rxvalid : Bool) (s : State) : Receives s (cidrxTick rxvalid s) :=
  (cidrxTickCase_receives rxvalid s).trans <| (cidrxCountdown_receives _).trans (cidrxCheckResult_receives _)

end Sys2Proof.Machine

end

/-! PROOFS. The spill, the MWI engine and the parts of a `TICK` aside from the calls. -/

section

namespace Sys2Proof.Machine

variable {s t u : State} {i : Instr} {j k : Nat}

/-! ### The spill -/

theorem discarded_aside (s : State) : Aside s (discarded s) where
  par := rfl
  line := rfl
  cwrepeat _ := id
  banks x := by cases x <;> rfl
  free x hx he := by
    cases x
    case r => exact absurd rfl hx
    all_goals exact he
  spill hs := spillInv_of_none hs.par rfl rfl
  mwi hs := ⟨hs.idle, fun hk => by cases hk⟩

theorem spillDiscard_aside (s : State) : Aside s (spillDiscard s) := spillDiscard_acts.aside (discarded_aside s)

/-- The registers after `SPILL_COMPLETE` (R258), but for the pass. -/
def completed (s : State) : State :=
  { s with
    line := { s.line with postwin := windowOf s.par s.tx.kind s.cfg }
    banks := { s.banks with real := { s.banks.real with linear := linearAfterDiscard s } }
    conf := if s.conf.confSusp then { s.conf with confSusp := false, saveconf := descNone } else s.conf
    tx := SpillRegs.reset }

/-- `SPILL_COMPLETE` before `CONF_RESTORE`. -/
def completeMove (s : State) : State :=
  (restoreLinear (destroySpill s)).updLine fun l => { l with postwin := windowOf s.par s.tx.kind s.cfg }

theorem restoreLinear_acts :
    Acts 1 (fun s => { s with
      banks := { s.banks with real := { s.banks.real with linear := linearAfterDiscard s } }
      tx := { s.tx with linSaved := false } }) restoreLinear := by
  have h : Acts 1 (onlyIf (fun s => s.tx.linSaved) fun s =>
      (s.updBank .r fun b => { b with linear := true }).updTx fun t => { t with linSaved := false }) restoreLinear :=
    Acts.onlyIf (fun _ _ _ _ _ => rfl)
      (((lrReal_acts _).thenSilent (updBank_silent _ _)).thenSilent (updTx_silent _))
  refine h.of_eq fun s => ?_
  cases hs : s.tx.linSaved
  · rw [onlyIf_false (c := fun s => s.tx.linSaved) hs, linearAfterDiscard, hs, Bool.or_false, ← hs]
  · rw [onlyIf_true (c := fun s => s.tx.linSaved) hs, linearAfterDiscard, hs, Bool.or_true]
    rfl

theorem completeMove_acts :
    Acts 1 (fun s => { s with
      line := { s.line with postwin := windowOf s.par s.tx.kind s.cfg }
      banks := { s.banks with real := { s.banks.real with linear := linearAfterDiscard s } }
      tx := SpillRegs.reset }) completeMove :=
  Acts.reading (c := fun s => windowOf s.par s.tx.kind s.cfg) (fun _ _ _ _ _ => rfl) fun w =>
    ((Silent.acts (p := destroySpill) fun _ _ _ _ _ => rfl).then restoreLinear_acts).thenSilent
      (updLine_silent fun l => { l with postwin := w })

theorem confRestore_cases (s : State) :
    s.conf.confSusp = false ∧ confRestore s = s ∨
    s.conf.confSusp = true ∧
      confRestore s = reconcilePass (s.updConf fun c => { c with confSusp := false, saveconf := descNone }) := by
  cases hsusp : s.conf.confSusp
  · exact .inl ⟨rfl, onlyIf_false (by simp [hsusp])⟩
  · exact .inr ⟨rfl, onlyIf_true (by simp [hsusp])⟩

/-- Where the suspension ends, `SPILL_COMPLETE` ends with a pass. -/
theorem spillComplete_eq (s : State) :
    spillComplete s =
      if s.conf.confSusp then reconcilePass ((completeMove s).updConf fun c => { c with confSusp := false, saveconf := descNone })
      else completeMove s := by
  have hconf : (completeMove s).conf = s.conf := by
    have h := (completeMove_acts.spoken s).toTalk.conf
    exact h
  have heq : spillComplete s = confRestore (completeMove s) := rfl
  obtain ⟨hsusp, h⟩ | ⟨hsusp, h⟩ := confRestore_cases (completeMove s) <;> rw [heq, h, ← hconf, hsusp] <;> rfl

theorem spillComplete_passes (s : State) : Passes 8 (completed s) (spillComplete s) := by
  rw [spillComplete_eq, completed]
  split
  · exact (completeMove_acts.thenSilent (updConf_silent fun c => { c with confSusp := false, saveconf := descNone })).thenPass s
  · exact (completeMove_acts.spoken s).passes.mono (by decide)

theorem completed_aside (s : State) : Aside s (completed s) where
  par := rfl
  line := rfl
  cwrepeat _ := id
  banks x := by cases x <;> rfl
  free x hx he := by
    cases x
    case r => exact absurd rfl hx
    all_goals exact he
  spill hs := by
    refine spillInv_of_none hs.par rfl ?_
    rw [completed]
    cases hsusp : s.conf.confSusp <;> simp [hsusp]
  mwi hs := ⟨hs.idle, fun hk => by cases hk⟩

theorem spillComplete_aside (s : State) : Aside s (spillComplete s) :=
  (completed_aside s).trans (spillComplete_passes s).aside

/-- `SPILL_START` of a spill that there is. -/
theorem begun_aside (hkind : s.tx.kind ≠ .none) : Aside s (begun s) where
  par := rfl
  line := rfl
  cwrepeat _ := id
  banks x := by cases x <;> rfl
  free x hx he := by
    cases x
    case r => exact absurd rfl hx
    all_goals exact he
  spill hs :=
    { par := hs.par
      absent := fun h => absurd h hkind
      unread := fun _ => hs.unread hkind
      fits := hs.fits
      suspended := suspended_confSusp _
      saved := fun _ => rfl
      companded := fun _ => rfl }
  mwi hs := ⟨hs.idle, hs.spill⟩

theorem spillStart_aside (hkind : s.tx.kind ≠ .none) : Aside s (spillStart s) :=
  (begun_aside hkind).trans (spillStart_passes s).aside

/-- A spill of samples that fit is loaded where no spill is being sent. -/
theorem loadSpill_spillInv {kind : SpillKind} {samples : List Byte} (hs : SpillInv s) (hgo : s.tx = SpillRegs.reset)
    (hkind : kind ≠ .none) (hpos : 0 < samples.length) (hle : samples.length ≤ s.par.spillBytes) :
    SpillInv (loadSpill kind samples s) := by
  have hlen := toNat_ofNat_of_le_spillBytes hs.par hle
  have hsaved : s.tx.linSaved = false := by rw [hgo]; rfl
  have hsusp : s.conf.confSusp = false := by rw [hs.suspended, hgo]; rfl
  exact
    { par := hs.par
      absent := fun h => absurd h hkind
      unread := fun _ => BitVec.lt_def.mpr (lt_of_lt_of_eq hpos hlen.symm)
      fits := hlen.trans_le hle
      suspended := hsusp
      saved := fun h => absurd (hsaved.symm.trans h) (by decide)
      companded := fun h => by cases h }

theorem generated_aside {kind : SpillKind} (hkind : kind = .cid ∨ kind = .cwcid) (s : State) : Aside s (generated kind s) := by
  have hnone : kind ≠ .none := by obtain rfl | rfl := hkind <;> decide
  have hmwi : kind ≠ .mwi := by obtain rfl | rfl := hkind <;> decide
  have hbanks := (discarded_aside s).banks
  have hfree := (discarded_aside s).free
  refine ⟨rfl, rfl, fun _ => id, hbanks, hfree, fun hs => ?_, fun hs => ⟨hs.idle, fun hk => absurd hk hmwi⟩⟩
  have hle : (cidSamples kind s).length ≤ s.par.spillBytes := cidSamples_length_le hs.par kind
  exact loadSpill_spillInv ((discarded_aside s).spill hs) rfl hnone (cidSamples_length_pos hs.par kind) hle

theorem cidGenerate_aside {kind : SpillKind} (hkind : kind = .cid ∨ kind = .cwcid) (s : State) : Aside s (cidGenerate kind s) :=
  (cidGenerate_acts kind).aside (generated_aside hkind s)

/-- `CW_ALERT` (R255) on a line with a call. -/
theorem cwAlert_aside (hst : s.line.st = .active) : Aside s (cwAlert s) := by
  have hgen := cidGenerate_aside (.inr rfl) s (kind := .cwcid)
  have hkind : (cidGenerate .cwcid s).tx.kind ≠ .none := by
    rw [((cidGenerate_acts .cwcid).spoken s).toTalk.tx]
    exact (by decide : SpillKind.cwcid ≠ .none)
  have hstart := hgen.trans (spillStart_aside hkind)
  refine hstart.trans (updLine_aside rfl fun h => ?_)
  rw [hstart.st, hst] at h
  simp at h

/-! ### The MWI engine -/

/-- The registers after `MWI_ENTER_SENDSPILL` (R346). -/
def mwiSpilled (s : State) : State := setMwi .sendSpill (begun (loadSpill .mwi (mwiSamples s) (discarded s)))

theorem loadMwi_silent : Silent fun s => loadSpill .mwi (mwiSamples s) s := fun _ _ _ _ _ => rfl

theorem mwiEnterSendSpill_passes (s : State) : Passes 9 (mwiSpilled s) (mwiEnterSendSpill s) :=
  ((spillDiscard_acts.thenSilent loadMwi_silent).thenSpillStart s).updMwi fun m => { m with st := .sendSpill }

theorem mwiSpilled_aside (hidle : s.mwi.st.isActive = true ∨ s.line.st = .idle) : Aside s (mwiSpilled s) := by
  have hbegun := begun_aside (s := loadSpill .mwi (mwiSamples s) (discarded s)) (by decide : SpillKind.mwi ≠ .none)
  have hbanks := (discarded_aside s).banks
  have hfree := (discarded_aside s).free
  refine ⟨rfl, rfl, fun _ => id, fun x => (hbegun.banks x).trans (hbanks x), fun x hx he => hbegun.free x hx (hfree x hx he),
    fun hs => ?_, fun hs => ⟨fun _ => hidle.elim hs.idle id, fun _ => rfl⟩⟩
  have hle : (mwiSamples s).length ≤ s.par.spillBytes := mwiSamples_length_le hs.par
  have hload := loadSpill_spillInv (kind := .mwi) ((discarded_aside s).spill hs) rfl (by decide) (mwiSamples_length_pos hs.par) hle
  exact (hbegun.spill hload).of_same rfl rfl rfl rfl

theorem mwiEnterSendSpill_aside (hidle : s.mwi.st.isActive = true ∨ s.line.st = .idle) : Aside s (mwiEnterSendSpill s) :=
  (mwiSpilled_aside hidle).trans (mwiEnterSendSpill_passes s).aside

theorem mwiMayStart_idle (h : mwiMayStart s = true) : s.line.st = .idle := by
  simp only [mwiMayStart, Bool.and_eq_true, beq_iff_eq] at h
  obtain ⟨⟨⟨⟨⟨⟨⟨-, hst⟩, -⟩, -⟩, -⟩, -⟩, -⟩, -⟩ := h
  exact hst

theorem mwiMayStart_noSpill (h : mwiMayStart s = true) : s.tx.kind = .none := by
  simp only [mwiMayStart, Bool.and_eq_true, beq_iff_eq] at h
  exact h.2

theorem mwiTryStart_aside (s : State) : Aside s (mwiTryStart s) := by
  refine Aside.onlyIf fun hmay => ?_
  have hidle := mwiMayStart_idle hmay
  have hnone := mwiMayStart_noSpill hmay
  refine Aside.trans (updMwi_aside .inl fun _ => id) (Aside.ifElse (fun _ => ?_) fun _ => mwiEnterSendSpill_aside (.inr hidle))
  exact updMwi_aside (fun _ => .inr hidle) fun hk => absurd (hk.symm.trans hnone) (by decide)

theorem hostMwinotifyBody_aside (b : Bool) (s : State) : Aside s (hostMwinotifyBody b s) :=
  .onlyIf fun _ => (updMwi_aside .inl fun _ => id).trans <| .onlyIf fun _ =>
    (updMwi_aside .inl fun _ => id).trans (mwiTryStart_aside _)

/-- The engine gives up where there is no MWI spill, or discards it. -/
theorem mwiGiveUp_aside (hkind : s.tx.kind = .mwi → s.mwi.st ≠ .sendSpill) : Aside s (mwiGiveUp s) :=
  (updMwi_aside (fun h => by cases h) fun hk hst => absurd hst (hkind hk)).trans (emit_talk _ _).aside

theorem mwiSendAlertTick_aside (hst : s.mwi.st = .sendAlert) : Aside s (mwiSendAlertTick s) := by
  have hasked := (asked_talk (lrWord (lineId s) (realH s) (.setHook .ring)) s).aside
  have hst' : (asked (lrWord (lineId s) (realH s) (.setHook .ring)) s).mwi.st = .sendAlert := by
    rw [(asked_talk _ s).mwi]; exact hst
  refine lrCase_cases (P := Aside s) (hasked.trans (updMwi_aside (fun _ => .inl ?_) fun _ h => ?_)) ?_
  · rw [hst']; rfl
  · rw [hst'] at h; cases h
  · refine hasked.trans ((raise_talk .lrCtrl _).aside.trans (mwiGiveUp_aside fun _ => ?_))
    rw [(raise_talk _ _).mwi, hst']
    decide

theorem mwiRingOff_aside (hst : s.mwi.st = .alertWait) : Aside s (mwiRingOff s) := by
  refine (mwiRingOff_says s).toTalk.aside |> (updMwi_aside (fun _ => .inl (by rw [hst]; rfl)) fun _ h => ?_).trans
  rw [hst] at h
  cases h

theorem mwiTick_aside (s : State) : Aside s (mwiTick s) := by
  unfold mwiTick
  cases hst : s.mwi.st with
  | null => exact .refl s
  | sendAlert => exact mwiSendAlertTick_aside hst
  | alertWait => exact .refl s
  | pause => exact .onlyIf fun _ => mwiEnterSendSpill_aside (.inl (by rw [hst]; rfl))
  | sendSpill =>
    refine .onlyIf fun hk => updMwi_aside (fun _ => .inl (by rw [hst]; rfl)) fun hkind => ?_
    rw [hkind] at hk
    cases hk
  | cleanup =>
    refine (emit_talk _ s).aside.trans (updMwi_aside (fun h => by cases h) fun _ h => ?_)
    rw [(emit_talk _ s).mwi, hst] at h
    cases h
  | done =>
    refine Aside.trans (updMwi_aside (fun h => by cases h) fun _ h => ?_) (mwiTryStart_aside _)
    rw [hst] at h
    cases h

theorem mwiAbort_aside (s : State) : Aside s (mwiAbort s) := by
  have hring : Aside s (onlyIf (fun s => s.mwi.st == .alertWait) (lrReal (.setHook .ringOff)) s) :=
    .onlyIf fun _ => (lrTry_talk _ _ _ s).aside
  generalize hu : onlyIf (fun s => s.mwi.st == .alertWait) (lrReal (.setHook .ringOff)) s = u at hring
  have hgive : mwiAbort s = mwiGiveUp (reconcilePass (spillDiscard u)) := by rw [← hu]; rfl
  rw [hgive]
  refine hring.trans ((spillDiscard_aside u).trans ((reconcilePass_passes _).aside.trans (mwiGiveUp_aside fun hk => ?_)))
  rw [(reconcilePass_passes _).tx, (spillDiscard_acts.spoken u).toTalk.tx] at hk
  cases hk

theorem mwiAbortIfActive_aside (s : State) : Aside s (mwiAbortIfActive s) := by
  unfold mwiAbortIfActive
  cases hst : s.mwi.st with
  | null | done => exact .refl s
  | sendAlert | alertWait | pause | sendSpill => exact mwiAbort_aside s
  | cleanup =>
    refine Aside.trans (updMwi_aside (fun h => by cases h) fun _ h => ?_) (emit_talk _ _).aside
    rw [hst] at h
    cases h

/-- After the abort the engine is at rest. -/
theorem mwiAbortIfActive_rests (s : State) : (mwiAbortIfActive s).mwi.st.isActive = false := by
  unfold mwiAbortIfActive
  cases hst : s.mwi.st with
  | null | done => dsimp only; rw [hst]; rfl
  | cleanup => rfl
  | sendAlert | alertWait | pause | sendSpill => rfl

end Sys2Proof.Machine

end

/-! PROOFS. A hangup of the line, and the parts of a `TICK`: each is aside from the calls, or hangs up. -/

section

namespace Sys2Proof.Machine

variable {s t u v : State} {i : Instr} {j k : Nat}

/-! ### Hanging up -/

/-- A line with a call, hung up. -/
structure Drops (s t : State) : Prop where
  notIdle : s.line.st ≠ .idle
  notReleasing : s.line.st ≠ .releasing
  down : ∃ u, Aside s u ∧ Aside (downed u) t

theorem lineDown_aside (cause : Cause) (skip : Option Leg) (s : State) : Aside (downed s) (lineDown cause skip s) :=
  (lineDown_passes cause skip s).aside

theorem Drops.before (h : Aside s t) (h' : Drops t u) : Drops s u := by
  obtain ⟨hidle, hrel, v, htv, hvu⟩ := h'
  exact ⟨h.st ▸ hidle, h.st ▸ hrel, v, h.trans htv, hvu⟩

theorem Drops.after (h : Drops s t) (h' : Aside t u) : Drops s u := by
  obtain ⟨hidle, hrel, v, hsv, hvt⟩ := h
  exact ⟨hidle, hrel, v, hsv, hvt.trans h'⟩

theorem Drops.st (h : Drops s t) : t.line.st = .releasing := by
  obtain ⟨-, -, u, -, hut⟩ := h
  exact hut.st

/-- What the loss of the resource comes to (R372). -/
theorem fatalLoss_quiet (hst : s.line.st = .idle ∨ s.line.st = .releasing) : Aside s (fatalLoss s) := by
  have hraise := ((raise_talk .fatal s).aside).trans (mwiAbortIfActive_aside _)
  refine hraise.trans (Aside.ifElse (fun _ => ?_) fun h => ?_)
  · exact (spillDiscard_aside _).trans ((cidrxReset_receives _).aside.trans
      ((clearPrering_receives _).aside.trans (reconcilePass_passes _).aside))
  · rw [hraise.st] at h
    obtain hst | hst := hst <;> simp [hst] at h

theorem fatalLoss_drops (hidle : s.line.st ≠ .idle) (hrel : s.line.st ≠ .releasing) : Drops s (fatalLoss s) := by
  have hraise := ((raise_talk .fatal s).aside).trans (mwiAbortIfActive_aside (raise .fatal s))
  refine ⟨hidle, hrel, _, hraise, ?_⟩
  have hcall : fatalLoss s = lineDown .fatal none (mwiAbortIfActive (raise .fatal s)) :=
    if_neg (by simp [hraise.st, hidle, hrel])
  rw [hcall]
  exact lineDown_aside _ _ _

/-! ### The spill transmitter -/

/-- A frame of a spill was written: the registers before `SPILL_COMPLETE`. -/
def frameSent (s : State) : State := s.updTx fun x => { x with rd := x.rd + BitVec.ofNat 16 (frameCount s) }

theorem spillTx_cases (s : State) :
    (frameCount s = 0 ∧ spillTx s = completeIfSent s) ∨
    (frameCount s ≠ 0 ∧ ∃ t, Talk s t ∧ (spillTx s = completeIfSent (frameSent t) ∨ spillTx s = fatalLoss t)) := by
  by_cases hcount : frameCount s = 0
  · exact .inl ⟨hcount, if_pos hcount⟩
  · refine .inr ⟨hcount, asked (frameWord (BitVec.ofNat 16 (frameCount s)) s) s, asked_talk _ s, ?_⟩
    have hsame : frameCount (asked (frameWord (BitVec.ofNat 16 (frameCount s)) s) s) = frameCount s := by
      have h := asked_talk (frameWord (BitVec.ofNat 16 (frameCount s)) s) s
      rw [frameCount, h.par, h.tx, frameCount]
    rw [spillTx, if_neg hcount, frameSent, hsame, lrRealCase, lrCase_eq]
    split
    · exact .inl rfl
    · exact .inr rfl

theorem frameCount_le (s : State) : frameCount s ≤ s.tx.len.toNat - s.tx.rd.toNat := Nat.min_le_right _ _

theorem frameSent_rd (s : State) (hrd : s.tx.rd < s.tx.len) :
    (frameSent s).tx.rd.toNat = s.tx.rd.toNat + frameCount s := by
  have hle := frameCount_le s
  have hlt := s.tx.len.isLt
  rw [BitVec.lt_def] at hrd
  have hrd' : (frameSent s).tx.rd = s.tx.rd + BitVec.ofNat 16 (frameCount s) := rfl
  rw [hrd', BitVec.toNat_add, BitVec.toNat_ofNat, Nat.mod_eq_of_lt (a := frameCount s) (by omega), Nat.mod_eq_of_lt (by omega)]

/-- What a frame sent leaves keeps the invariants once a spill sent to its end is completed. -/
theorem completeIfSent_aside (s : State) : Aside s (completeIfSent s) := .onlyIf fun _ => spillComplete_aside s

theorem completed_spillInv (hp : s.par.ok) : SpillInv (completed s) := by
  refine spillInv_of_none hp rfl ?_
  rw [completed]
  cases hsusp : s.conf.confSusp <;> simp [hsusp]

theorem frameSent_spillInv (hs : SpillInv s) (hcount : frameCount s ≠ 0) (hrest : (frameSent s).tx.rd ≠ s.tx.len) :
    SpillInv (frameSent s) := by
  have hkind : s.tx.kind ≠ .none := fun hnone => hcount (by
    obtain ⟨hlen, -, -⟩ := hs.absent hnone
    rw [frameCount, hlen]
    simp)
  have hrd := hs.unread hkind
  have hsum := frameSent_rd s hrd
  have hle := frameCount_le s
  exact
    { par := hs.par
      absent := fun h => absurd h hkind
      unread := fun _ => by
        have hne : (frameSent s).tx.rd.toNat ≠ s.tx.len.toNat := fun h => hrest (BitVec.eq_of_toNat_eq h)
        have hlen : (frameSent s).tx.len = s.tx.len := rfl
        rw [BitVec.lt_def] at hrd ⊢
        rw [hlen]
        omega
      fits := hs.fits
      suspended := hs.suspended
      saved := hs.saved
      companded := hs.companded }

theorem frameSent_aside (hcount : frameCount s ≠ 0) : Aside s (completeIfSent (frameSent s)) := by
  have hline : Aside s s := .refl s
  by_cases hsent : (frameSent s).tx.rd = (frameSent s).tx.len
  · have hc := completed_aside (frameSent s)
    have heq : completeIfSent (frameSent s) = spillComplete (frameSent s) := onlyIf_true (by simpa using hsent)
    rw [heq]
    refine Aside.trans ?_ (spillComplete_passes _).aside
    exact ⟨rfl, rfl, fun _ => id, fun x => hc.banks x, fun x => hc.free x, fun hs => completed_spillInv hs.par,
      fun hs => ⟨hs.idle, fun hk => by cases hk⟩⟩
  · have heq : completeIfSent (frameSent s) = frameSent s := onlyIf_false (by simpa using hsent)
    rw [heq]
    exact ⟨rfl, rfl, fun _ => id, fun _ => rfl, fun _ _ => id, fun hs => frameSent_spillInv hs hcount hsent,
      fun hs => ⟨hs.idle, hs.spill⟩⟩

theorem spillTx_aside_or_drops (s : State) :
    Aside s (spillTx s) ∨ Drops s (spillTx s) := by
  obtain ⟨-, h⟩ | ⟨hcount, t, ht, h | h⟩ := spillTx_cases s <;> rw [h]
  · exact .inl (completeIfSent_aside s)
  · have hcount' : frameCount t ≠ 0 := by rw [frameCount, ht.par, ht.tx]; exact hcount
    exact .inl (ht.aside.trans (frameSent_aside hcount'))
  · by_cases hquiet : t.line.st = .idle ∨ t.line.st = .releasing
    · exact .inl (ht.aside.trans (fatalLoss_quiet hquiet))
    · push Not at hquiet
      exact .inr (.before ht.aside (fatalLoss_drops hquiet.1 hquiet.2))

/-! ### The late parts of a `TICK` -/

theorem postwinTick_aside (s : State) : Aside s (postwinTick s) := updLine_aside rfl fun _ => id

theorem cwrepeatTick_aside (s : State) : Aside s (cwrepeatTick s) := by
  refine Aside.onlyIf fun hne => Aside.trans (updLine_aside rfl fun _ h0 => ?_) (Aside.onlyIf fun hdue => cwAlert_aside ?_)
  · rw [h0] at hne
    cases hne
  · simp only [Bool.and_eq_true, beq_iff_eq] at hdue
    obtain ⟨⟨-, hst⟩, -⟩ := hdue
    exact hst

theorem spillTick_aside_or_drops (txready : Bool) (s : State) : Aside s (spillTick txready s) ∨ Drops s (spillTick txready s) :=
  onlyIf_cases (P := fun t => Aside s t ∨ Drops s t) (fun _ => spillTx_aside_or_drops s) fun _ => .inl (.refl s)

theorem housekeepingTick_aside (s : State) : Aside s (housekeepingTick s) :=
  (updLine_aside rfl fun _ => id).trans <| .onlyIf fun _ => (updLine_aside rfl fun _ => id).trans (mwiTryStart_aside _)

/-- Parts 4 to 9 of `TICK`. -/
def lateParts (rxvalid txready : Bool) (s : State) : State :=
  s |> postwinTick |> cwrepeatTick |> spillTick txready |> cidrxTick rxvalid |> mwiTick |> housekeepingTick

theorem tickParts_eq (rxvalid txready : Bool) (s : State) :
    tickParts rxvalid txready s = lateParts rxvalid txready (ringTick (guardTick (advanceNow s))) := rfl

/-- Parts 7 to 9. -/
theorem lastParts_aside (rxvalid : Bool) (s : State) : Aside s (housekeepingTick (mwiTick (cidrxTick rxvalid s))) :=
  (cidrxTick_receives rxvalid s).aside.trans ((mwiTick_aside _).trans (housekeepingTick_aside _))

theorem lateParts_aside_or_drops (rxvalid txready : Bool) (s : State) :
    Aside s (lateParts rxvalid txready s) ∨ Drops s (lateParts rxvalid txready s) := by
  have hfirst := (postwinTick_aside s).trans (cwrepeatTick_aside _)
  have hlast := lastParts_aside rxvalid (spillTick txready (cwrepeatTick (postwinTick s)))
  obtain h | h := spillTick_aside_or_drops txready (cwrepeatTick (postwinTick s))
  · exact .inl (hfirst.trans (h.trans hlast))
  · exact .inr (.before hfirst (h.after hlast))

/-- On a line without a call nothing is hung up. -/
theorem lateParts_aside (hst : s.line.st = .idle ∨ s.line.st = .releasing) (rxvalid txready : Bool) :
    Aside s (lateParts rxvalid txready s) :=
  (lateParts_aside_or_drops rxvalid txready s).resolve_right fun h => hst.elim h.notIdle h.notReleasing

/-! ### The ring timeout and the guard time -/

/-- The ring budget counted down. -/
def ringCounted (s : State) : State := s.updLine fun l => { l with ringt := countDown l.ringt }

/-- The three things the ring timer does (R363). -/
theorem ringTick_cases (s : State) :
    ringTick s = s ∨
    (s.line.st = .offered ∧ s.line.ringt ≠ 1 ∧ ringTick s = ringCounted s) ∨
    (s.line.st = .offered ∧ s.line.ringing = true ∧ s.line.ringt = 1 ∧ ringTick s = lineDown .ringTimeout none (ringCounted s)) := by
  by_cases hring : s.line.st = .offered ∧ s.line.ringing = true ∧ s.line.ringt ≠ 0
  · obtain ⟨hst, hringing, hne⟩ := hring
    have hb : (s.line.ringt != 0) = true := bne_iff_ne.mpr hne
    have hcount : ringTick s = onlyIf (fun s => s.line.ringt == 0) (lineDown .ringTimeout none) (ringCounted s) :=
      onlyIf_true (by simp only [hst, hringing, hb]; rfl)
    have hzero : (ringCounted s).line.ringt = 0 ↔ s.line.ringt = 1 :=
      (countDown_eq_zero _).trans (or_iff_right hne)
    by_cases h1 : s.line.ringt = 1
    · exact .inr (.inr ⟨hst, hringing, h1, hcount.trans (onlyIf_true (by simpa using hzero.mpr h1))⟩)
    · exact .inr (.inl ⟨hst, h1, hcount.trans (onlyIf_false (by simpa using mt hzero.mp h1))⟩)
  · exact .inl (onlyIf_false (by simpa [and_assoc] using hring))

/-- The line is Idle again (R362). -/
def guarded (s : State) : State := s.updLine fun l => { l with st := .idle }

theorem guardTick_cases (s : State) :
    (s.line.st = .releasing ∧ reachedAt s.line.now s.line.guardUntil = true ∧ guardTick s = guarded s) ∨ guardTick s = s := by
  by_cases h : s.line.st = .releasing ∧ reachedAt s.line.now s.line.guardUntil = true
  · exact .inl ⟨h.1, h.2, onlyIf_true (by simp [h])⟩
  · exact .inr (onlyIf_false (by simpa using h))

end Sys2Proof.Machine

end

/-! PROOFS. What an event does to the calls of a line: `Still` where `ST` and the tone stay, `Shift` for any event; and each
of the registers' results that a rule of the call state machine leaves. -/

section

namespace Sys2Proof.Machine

variable {s t u v : State} {i : Instr} {j k : Nat}

/-! ### Invariants of explicit results -/

/-- Each bank of `t` is empty, or is bound to the handle of an allocated bank of `s`, no two of them to the same. -/
theorem BankInv.of_map (h : BankInv s) {σ : Leg → Leg} (hσ : Function.Injective σ) (hreal : t.banks.real.alloc = true)
    (hcur : t.line.curleg = none ∨ t.line.curleg = some .r)
    (hb : ∀ x, t.bank x = Bank.empty ∨
      ((s.bank (σ x)).alloc = true ∧ (t.bank x).alloc = true ∧ (t.bank x).res = (s.bank (σ x)).res)) : BankInv t where
  real_alloc := hreal
  distinct x y hxy hx hy := by
    obtain ⟨hsx, -, hrx⟩ := (hb x).resolve_left fun he => by rw [he] at hx; cases hx
    obtain ⟨hsy, -, hry⟩ := (hb y).resolve_left fun he => by rw [he] at hy; cases hy
    rw [hrx, hry]
    exact h.distinct _ _ (fun he => hxy (hσ he)) hsx hsy
  owned_alloc x hx := ((hb x).resolve_left fun he => by rw [he] at hx; cases hx).2.1
  in3way_alloc x hx := ((hb x).resolve_left fun he => by rw [he] at hx; cases hx).2.1
  curleg := hcur
  free x hx := (hb x).resolve_right fun ⟨_, ha, _⟩ => by rw [hx] at ha; cases ha

/-- A bank of a good state as it is asked for in `BankInv.of_map`. -/
theorem BankInv.same (h : BankInv s) {x : Leg} {b : Bank} (hb : s.bank x = Bank.empty → b = Bank.empty)
    (halloc : b.alloc = (s.bank x).alloc) (hres : b.res = (s.bank x).res) :
    b = Bank.empty ∨ ((s.bank x).alloc = true ∧ b.alloc = true ∧ b.res = (s.bank x).res) := by
  cases ha : (s.bank x).alloc
  · exact .inl (hb (h.free x ha))
  · exact .inr ⟨rfl, halloc.trans ha, hres⟩

theorem QuietInv.of_busy {y : CallState} (hst : t.line.st = y) (hidle : y ≠ .idle) (hrel : y ≠ .releasing) : QuietInv t :=
  ⟨fun h => absurd (hst ▸ h) (not_or.mpr ⟨hidle, hrel⟩)⟩

/-- With a call on the line the MWI engine is at rest. -/
theorem MwiInv.inactive (h : MwiInv s) (hst : s.line.st ≠ .idle) : s.mwi.st.isActive = false :=
  Bool.eq_false_iff.mpr fun ha => hst (h.idle ha)

theorem MwiInv.of_inactive (h : MwiInv s) (hm : s.mwi.st.isActive = false) (hmwi : t.mwi.st = s.mwi.st)
    (hkind : t.tx.kind = .mwi → s.tx.kind = .mwi) : MwiInv t :=
  ⟨fun ha => absurd (hm ▸ hmwi ▸ ha) Bool.false_ne_true, fun hk => hmwi.trans (h.spill (hkind hk))⟩

theorem toneInv_of_none (h : t.line.tone = .none) : ToneInv t := fun hne => absurd h hne

/-- No tone plays on a line that is neither offered nor in a three-way build. -/
theorem ToneInv.none (h : ToneInv s) (hoff : s.line.st ≠ .offered) (hdial : s.line.st ≠ .threeWayDialing) : s.line.tone = .none := by
  by_contra hne
  exact (h hne).elim hoff hdial

/-! ### The two relations -/

/-- `ST` and the tone stay, and the invariants are kept. -/
structure Still (s t : State) : Prop where
  st : t.line.st = s.line.st
  tone : t.line.tone = s.line.tone
  bank : BankInv s → BankInv t
  spill : SpillInv s → SpillInv t
  quiet : QuietInv s → QuietInv t
  call : CallInv s → CallInv t
  mwi : MwiInv s → MwiInv t

/-- What the operation `i` may do: the invariants are kept, and `ST` moves as R162 and R163 say. -/
structure Shift (i : Instr) (s t : State) : Prop where
  bank : BankInv s → BankInv t
  spill : SpillInv s → SpillInv t
  quiet : BankInv s → QuietInv s → QuietInv t
  call : BankInv s → QuietInv s → CallInv s → CallInv t
  tone : ToneInv s → ToneInv t
  mwi : QuietInv s → MwiInv s → MwiInv t
  moves : BankInv s → QuietInv s → CallInv s → ToneInv s → t.line.st ≠ s.line.st →
    mayMove s.line.st t.line.st i = true ∧ t.line.tone = toneOnMove s t.line.st i

theorem Still.refl (s : State) : Still s s := ⟨rfl, rfl, id, id, id, id, id⟩

theorem Still.trans (h : Still s t) (h' : Still t u) : Still s u :=
  ⟨h'.st.trans h.st, h'.tone.trans h.tone, fun hs => h'.bank (h.bank hs), fun hs => h'.spill (h.spill hs),
    fun hs => h'.quiet (h.quiet hs), fun hs => h'.call (h.call hs), fun hs => h'.mwi (h.mwi hs)⟩

theorem Still.toneInv (h : Still s t) (hs : ToneInv s) : ToneInv t := by
  rw [ToneInv, h.st, h.tone]
  exact hs

theorem Still.shift (h : Still s t) (i : Instr) : Shift i s t :=
  ⟨h.bank, h.spill, fun _ => h.quiet, fun _ _ => h.call, h.toneInv, fun _ => h.mwi,
    fun _ _ _ _ hne => absurd h.st hne⟩

theorem toneOnMove_congr (hst : t.line.st = s.line.st) (htone : t.line.tone = s.line.tone) (y : CallState) (i : Instr) :
    toneOnMove t y i = toneOnMove s y i := by
  simp only [toneOnMove, hst, htone]

theorem Shift.before (h : Still s t) (h' : Shift i t u) : Shift i s u where
  bank hs := h'.bank (h.bank hs)
  spill hs := h'.spill (h.spill hs)
  quiet hb hq := h'.quiet (h.bank hb) (h.quiet hq)
  call hb hq hc := h'.call (h.bank hb) (h.quiet hq) (h.call hc)
  tone hs := h'.tone (h.toneInv hs)
  mwi hq hs := h'.mwi (h.quiet hq) (h.mwi hs)
  moves hb hq hc ht hne := by
    have hm := h'.moves (h.bank hb) (h.quiet hq) (h.call hc) (h.toneInv ht) (by rw [h.st]; exact hne)
    rwa [h.st, toneOnMove_congr h.st h.tone] at hm

theorem Shift.after (h : Shift i s t) (h' : Still t u) : Shift i s u where
  bank hs := h'.bank (h.bank hs)
  spill hs := h'.spill (h.spill hs)
  quiet hb hq := h'.quiet (h.quiet hb hq)
  call hb hq hc := h'.call (h.call hb hq hc)
  tone hs := h'.toneInv (h.tone hs)
  mwi hq hs := h'.mwi (h.mwi hq hs)
  moves hb hq hc ht hne := by
    rw [h'.st] at hne ⊢
    rw [h'.tone]
    exact h.moves hb hq hc ht hne

/-! ### What stays aside is still -/

theorem Aside.bankInv (h : Aside s t) (hs : BankInv s) : BankInv t := by
  refine hs.of_map (σ := id) Function.injective_id ((h.alloc .r).trans hs.real_alloc) (by rw [h.curleg]; exact hs.curleg) fun x => ?_
  cases ha : (s.bank x).alloc
  · cases x
    case r => exact absurd (hs.real_alloc.symm.trans ha) (by decide)
    all_goals exact .inl (h.free _ (by decide) (hs.free _ ha))
  · exact .inr ⟨ha, (h.alloc x).trans ha, h.res x⟩

theorem Aside.quietInv (h : Aside s t) (hs : QuietInv s) : QuietInv t where
  quiet hst := by
    rw [h.st] at hst
    obtain ⟨hown, hhook, hringing, hringt, hdir, hcur, hans, hflash, hpend, hdialing, hrep⟩ := hs.quiet hst
    exact ⟨fun x => (h.owned x).trans (hown x), h.hook.trans hhook, h.ringing.trans hringing, h.ringt.trans hringt,
      h.calldir.trans hdir, h.curleg.trans hcur, h.answered.trans hans, h.flashV.trans hflash, h.dialPending.trans hpend,
      h.dialing.trans hdialing, h.cwrepeat hst hrep⟩

/-- The same legs carry calls, in the same state of the line. -/
theorem CallInv.of_owned (hs : CallInv s) (hst : t.line.st = s.line.st) (h : ∀ x, (t.bank x).owned = (s.bank x).owned) : CallInv t := by
  refine ⟨?_, ?_⟩
  · rw [h, h, h]; exact hs.two
  · rw [hst]
    intro hoff x y hx hy
    exact hs.one hoff x y (h x ▸ hx) (h y ▸ hy)

theorem Aside.still (h : Aside s t) : Still s t :=
  ⟨h.st, h.tone, h.bankInv, h.spill, h.quietInv, fun hs => hs.of_owned h.st h.owned, h.mwi⟩

/-- Line registers of a call change: no invariant sees it but those of a line without a call. -/
theorem updLine_still {f : LineRegs → LineRegs} (hst : (f s.line).st = s.line.st) (htone : (f s.line).tone = s.line.tone)
    (hcur : (f s.line).curleg = s.line.curleg) (hq : QuietInv s → QuietInv (s.updLine f)) : Still s (s.updLine f) where
  st := hst
  tone := htone
  bank hs := { hs with curleg := by rw [State.updLine_line, hcur]; exact hs.curleg }
  spill hs := hs.of_same rfl rfl rfl rfl
  quiet := hq
  call hs := hs.of_owned hst fun _ => rfl
  mwi hs := hs.of_same hst rfl rfl

/-! ### A line hung up -/

theorem Bank.dropped_of_alloc {b : Bank} (h : b.alloc = true) : b.dropped = Bank.empty := by rw [Bank.dropped, if_pos h]

theorem BankInv.dropped (h : BankInv s) (x : Leg) : (s.bank x).dropped = Bank.empty := by
  cases ha : (s.bank x).alloc
  · rw [Bank.dropped, if_neg (by rw [ha]; decide)]
    exact h.free x ha
  · exact Bank.dropped_of_alloc ha

theorem downed_bankInv (hs : BankInv s) : BankInv (downed s) := by
  refine hs.of_map (σ := id) Function.injective_id hs.real_alloc (.inl rfl) fun x => ?_
  cases x
  case r => exact .inr ⟨hs.real_alloc, hs.real_alloc, rfl⟩
  case cw => exact .inl (hs.dropped .cw)
  case tw => exact .inl (hs.dropped .tw)

theorem downed_unowned (hs : BankInv s) (x : Leg) : ((downed s).bank x).owned = false := by
  cases x
  case r => rfl
  case cw => exact congrArg Bank.owned (hs.dropped .cw)
  case tw => exact congrArg Bank.owned (hs.dropped .tw)

/-- A call is hung up by a word that may do so. -/
theorem downed_shift (h : QuietInv s → s.line.st ≠ .idle ∧ (s.line.st ≠ .releasing → mayMove s.line.st .releasing i = true)) :
    Shift i s (downed s) where
  bank := downed_bankInv
  spill hs := spillInv_of_none hs.par rfl rfl
  quiet hb _ := ⟨fun _ => ⟨downed_unowned hb, rfl, rfl, rfl, rfl, rfl, rfl, rfl, rfl, rfl, rfl⟩⟩
  call hb _ _ :=
    ⟨fun h => by rw [downed_unowned hb] at h; simp at h, fun _ x _ hx => by rw [downed_unowned hb x] at hx; cases hx⟩
  tone _ := toneInv_of_none rfl
  mwi hq hs := hs.of_inactive (hs.inactive (h hq).1) rfl fun hk => by cases hk
  moves _ hq _ _ hne := ⟨(h hq).2 fun h => hne h.symm, by cases hst : s.line.st <;> simp [toneOnMove, hst, downed]⟩

theorem Drops.shift (h : Drops s t) (hm : mayMove s.line.st .releasing i = true) : Shift i s t := by
  obtain ⟨hidle, -, u, hsu, hut⟩ := h
  refine .before hsu.still ((downed_shift fun _ => ?_).after hut.still)
  rw [hsu.st]
  exact ⟨hidle, fun _ => hm⟩

end Sys2Proof.Machine

end

/-! PROOFS. The results of the call state machine, each as a `Shift`: how every rule that moves `ST` or rebinds a leg leaves the
invariants. -/

section

namespace Sys2Proof.Machine

variable {s t u v : State} {i : Instr} {j k : Nat}

/-- Every leg that carries a call carried one before on a leg of its own, in the same state of the line. -/
theorem CallInv.of_map (hs : CallInv s) (hst : t.line.st = .offered → s.line.st = .offered) (σ : Equiv.Perm Leg)
    (h : ∀ x, (t.bank x).owned = true → (s.bank (σ x)).owned = true) : CallInv t where
  two := fun ⟨hr, hcw, htw⟩ => by
    have hall : ∀ x, (s.bank (σ x)).owned = true
      | .r => h _ hr
      | .cw => h _ hcw
      | .tw => h _ htw
    have hown (x : Leg) : (s.bank x).owned = true := by simpa using hall (σ.symm x)
    exact hs.two ⟨hown .r, hown .cw, hown .tw⟩
  one hoff x y hx hy := σ.injective (hs.one (hst hoff) _ _ (h x hx) (h y hy))

/-- One leg at least carries no call. -/
theorem CallInv.of_unowned {x : Leg} (hx : (t.bank x).owned = false) {y : CallState} (hst : t.line.st = y) (hy : y ≠ .offered) :
    CallInv t := by
  refine ⟨fun ⟨hr, hcw, htw⟩ => ?_, fun hoff => absurd (hst.symm.trans hoff) hy⟩
  cases x <;> simp_all

/-- Only Real carries a call. -/
theorem CallInv.of_real (h : ∀ x, x ≠ .r → (t.bank x).owned = false) : CallInv t := by
  have hr (x : Leg) (hx : (t.bank x).owned = true) : x = .r := by
    by_contra hne
    rw [h x hne] at hx
    cases hx
  exact ⟨fun ⟨_, hcw, _⟩ => absurd (hr .cw hcw) (by decide), fun _ x y hx hy => (hr x hx).trans (hr y hy).symm⟩

theorem QuietInv.unowned_of_busy (h : QuietInv s) {x : Leg} (hx : (s.bank x).owned = true) :
    s.line.st ≠ .idle ∧ s.line.st ≠ .releasing := by
  have hno : ¬ (s.line.st = .idle ∨ s.line.st = .releasing) := fun hst => by
    obtain ⟨hown, -⟩ := h.quiet hst
    rw [hown x] at hx
    cases hx
  exact not_or.mp hno

/-! ### A call begins -/

/-- From Idle, with the MWI engine at rest, the line is Offered and Real carries the call. -/
theorem opening_shift (hst : s.line.st = .idle) (hm : s.mwi.st.isActive = false) (ht : t.line.st = .offered)
    (hcur : t.line.curleg = none ∨ t.line.curleg = some .r) (hbanks : ∀ x, x ≠ .r → t.bank x = s.bank x)
    (halloc : t.banks.real.alloc = s.banks.real.alloc) (hres : t.banks.real.res = s.banks.real.res)
    (hspill : SpillInv s → SpillInv t) (hmwi : t.mwi.st = s.mwi.st) (hkind : t.tx.kind = .mwi → s.tx.kind = .mwi)
    (hmay : mayMove .idle .offered i = true) (htone : s.line.tone = .none → t.line.tone = toneOnMove s .offered i) :
    Shift i s t where
  bank hs := by
    refine hs.of_map (σ := id) Function.injective_id (halloc.trans hs.real_alloc) hcur fun x => ?_
    cases x
    case r => exact .inr ⟨hs.real_alloc, halloc.trans hs.real_alloc, hres⟩
    all_goals
      rw [hbanks _ (by decide)]
      exact hs.same id rfl rfl
  spill := hspill
  quiet _ _ := .of_busy ht (by decide) (by decide)
  call _ hq _ := .of_real fun x hx => by
    obtain ⟨hown, -⟩ := hq.quiet (.inl hst)
    rw [hbanks x hx, hown x]
  tone _ _ := .inl ht
  mwi _ hs := hs.of_inactive hm hmwi hkind
  moves _ _ _ htoneInv _ := by
    rw [ht, hst]
    exact ⟨hmay, htone (htoneInv.none (by rw [hst]; decide) (by rw [hst]; decide))⟩

theorem seized_shift (hi : isOffhook i = true) (hst : s.line.st = .idle) (hm : s.mwi.st.isActive = false) : Shift i s (seized s) :=
  opening_shift hst hm rfl (.inr rfl) (fun x hx => by cases x <;> first | exact absurd rfl hx | rfl) rfl rfl
    (fun hs => hs.of_same rfl rfl rfl rfl) rfl id (by simp [mayMove, hi]) fun _ => by simp [toneOnMove, hst, hi, seized]

theorem ringOpened_shift (hi : isRingbegin i = true ∨ isRingoffhook i = true) (hno : isOffhook i = false) (hst : s.line.st = .idle)
    (hm : s.mwi.st.isActive = false) : Shift i s (ringOpened s) :=
  opening_shift hst hm rfl (.inl rfl) (fun x hx => by cases x <;> first | exact absurd rfl hx | rfl) rfl rfl
    (fun hs => hs.of_same rfl rfl rfl rfl) rfl id (by obtain hi | hi := hi <;> simp [mayMove, hi]) fun _ => by
      simp [toneOnMove, hst, hno, ringOpened, LineRegs.goneTo]

theorem rungFor_shift (hi : isCallWord i = true) (hno : isOffhook i = false) (tag : Byte) (timeout : Half) (hst : s.line.st = .idle)
    (hm : s.mwi.st.isActive = false) : Shift i s (rungFor tag timeout s) :=
  opening_shift hst hm rfl (.inl rfl) (fun x hx => by cases x <;> first | exact absurd rfl hx | rfl) rfl rfl
    (fun hs => hs.of_same rfl rfl rfl rfl) rfl id (by simp [mayMove, hi]) fun htone => by
      simp only [toneOnMove, hst, hno]
      exact htone

theorem dialled_shift (hi : isCallWord i = true) (hno : isOffhook i = false) (n tag : Byte) (hst : s.line.st = .idle)
    (hm : s.mwi.st.isActive = false) : Shift i s (dialled n tag s) :=
  opening_shift hst hm rfl (.inr rfl) (fun x hx => by cases x <;> first | exact absurd rfl hx | rfl) rfl rfl
    (fun hs => hs.of_same rfl rfl rfl rfl) rfl id (by simp [mayMove, hi]) fun htone => by
      simp only [toneOnMove, hst, hno]
      exact htone

/-! ### A call is established -/

/-- The line registers alone change, and the line has a call before and after. -/
theorem callLine_shift {f : LineRegs → LineRegs} {y : CallState} (hidle : s.line.st ≠ .idle) (hst : (f s.line).st = y)
    (hy : y.isCall = true) (htone : (f s.line).tone = .none)
    (hcur : (f s.line).curleg = some .r ∨ (f s.line).curleg = s.line.curleg)
    (hm : mayMove s.line.st y i = true) (hno : toneOnMove s y i = .none) : Shift i s (s.updLine f) := by
  have hcall : y ≠ .idle ∧ y ≠ .releasing ∧ y ≠ .offered := by cases y <;> simp_all [CallState.isCall]
  obtain ⟨h1, h2, h3⟩ := hcall
  exact
    { bank := fun hs => { hs with curleg := hcur.elim .inr fun h => by rw [State.updLine_line, h]; exact hs.curleg }
      spill := fun hs => hs.of_same rfl rfl rfl rfl
      quiet := fun _ _ => .of_busy hst h1 h2
      call := fun _ _ hs => hs.of_map (fun hoff => absurd (hst.symm.trans hoff) h3) 1 fun _ => id
      tone := fun _ => toneInv_of_none htone
      mwi := fun _ hs => hs.of_inactive (hs.inactive hidle) rfl id
      moves := fun _ _ _ _ _ => by
        rw [State.updLine_line, hst, hno]
        exact ⟨hm, htone⟩ }

theorem established_shift (hst : s.line.st = .offered) (hm : mayMove .offered .active i = true) : Shift i s (established s) :=
  callLine_shift (y := .active) (by rw [hst]; decide) rfl rfl (by simp [LineRegs.goneTo, hst]) (.inl rfl) (by rw [hst]; exact hm)
    (by simp [toneOnMove, hst])

/-! ### Flashes -/

theorem swap_r_cw (x : Leg) : Equiv.swap Leg.r .cw x = match x with | .r => .cw | .cw => .r | .tw => .tw := by
  cases x <;> rfl

theorem swap_r_tw (x : Leg) : Equiv.swap Leg.r .tw x = match x with | .r => .tw | .cw => .cw | .tw => .r := by
  cases x <;> rfl

/-- The flash of R201. -/
theorem swappedOver_shift (hi : isWinkflash i = true) (hst : s.line.st.isCall = true) (hcw : s.banks.cw.owned = true)
    (p : PendBit) : Shift i s (swappedOver p s) where
  bank hs := by
    have hcwa : s.banks.cw.alloc = true := hs.owned_alloc .cw hcw
    refine hs.of_map (Equiv.swap Leg.r .cw).injective hcwa (.inr rfl) fun x => ?_
    rw [swap_r_cw]
    cases x
    case r => exact .inr ⟨hcwa, hcwa, rfl⟩
    case cw => exact .inr ⟨hs.real_alloc, hs.real_alloc, rfl⟩
    case tw => exact hs.same id rfl rfl
  spill hs := spillInv_of_none hs.par rfl rfl
  quiet _ _ := .of_busy (y := .onHold) rfl (by decide) (by decide)
  call _ _ hs := hs.of_map (fun h => by cases h) (Equiv.swap .r .cw) fun x hx => by
    rw [swap_r_cw]
    cases x <;> exact hx
  tone _ := toneInv_of_none rfl
  mwi _ hs := hs.of_inactive (hs.inactive fun h => by rw [h] at hst; cases hst) rfl fun hk => by cases hk
  moves _ _ _ _ _ := by
    obtain hst | hst | hst := isCall_iff.mp hst <;> rw [hst] <;> simp_all [mayMove, toneOnMove, swappedOver]

/-- The flash of R204, after the ThreeWay leg is bound. -/
theorem built_shift (hi : isWinkflash i = true) (hst : s.line.st = .active) (hcw : s.banks.cw.owned = false)
    (htw : s.banks.tw.alloc = true) : Shift i s (built s) where
  bank hs := by
    refine hs.of_map (Equiv.swap Leg.r .tw).injective htw (.inr rfl) fun x => ?_
    rw [swap_r_tw]
    cases x
    case r => exact .inr ⟨htw, htw, rfl⟩
    case cw => exact hs.same id rfl rfl
    case tw => exact .inr ⟨hs.real_alloc, hs.real_alloc, rfl⟩
  spill hs := spillInv_of_none hs.par rfl rfl
  quiet _ _ := .of_busy (y := .threeWayDialing) rfl (by decide) (by decide)
  call _ _ _ := .of_unowned (x := .cw) hcw (y := .threeWayDialing) rfl (by decide)
  tone _ _ := .inr rfl
  mwi _ hs := hs.of_inactive (hs.inactive (by rw [hst]; decide)) rfl fun hk => by cases hk
  moves _ _ _ _ _ := by rw [hst]; simp [mayMove, toneOnMove, built, hst, hi]

/-- The flash of R205. -/
theorem merged_shift (hst : s.line.st.isCall = true) (htw : s.banks.tw.owned = true) : Shift i s (merged s) where
  bank hs := by
    have htwa : s.banks.tw.alloc = true := hs.owned_alloc .tw htw
    refine hs.of_map (Equiv.swap Leg.r .tw).injective htwa (.inr rfl) fun x => ?_
    rw [swap_r_tw]
    cases x
    case r => exact .inr ⟨htwa, htwa, rfl⟩
    case cw => exact hs.same id rfl rfl
    case tw => exact .inr ⟨hs.real_alloc, hs.real_alloc, rfl⟩
  spill hs := spillInv_of_none hs.par rfl rfl
  quiet _ _ := .of_busy (y := s.line.st) rfl (fun h => by rw [h] at hst; cases hst) fun h => by rw [h] at hst; cases hst
  call _ _ hs := hs.of_map id (Equiv.swap .r .tw) fun x hx => by
    rw [swap_r_tw]
    cases x <;> exact hx
  tone _ := toneInv_of_none rfl
  mwi _ hs := hs.of_inactive (hs.inactive fun h => by rw [h] at hst; cases hst) rfl fun hk => by cases hk
  moves _ _ _ _ hne := absurd rfl hne

/-- The flash of R207. -/
theorem undone_shift (hi : isWinkflash i = true) (hst : s.line.st = .threeWayDialing) (htw : s.banks.tw.owned = true) :
    Shift i s (undone (stampFlash s)) where
  bank hs := by
    have htwa : s.banks.tw.alloc = true := hs.owned_alloc .tw htw
    refine hs.of_map (Equiv.swap Leg.r .tw).injective htwa (.inr rfl) fun x => ?_
    rw [swap_r_tw]
    cases x
    case r => exact .inr ⟨htwa, htwa, rfl⟩
    case cw => exact hs.same id rfl rfl
    case tw => exact .inl rfl
  spill hs := spillInv_of_none hs.par rfl rfl
  quiet _ _ := .of_busy (y := .active) rfl (by decide) (by decide)
  call _ _ _ := .of_unowned (x := .tw) rfl (y := .active) rfl (by decide)
  tone _ := toneInv_of_none rfl
  mwi _ hs := hs.of_inactive (hs.inactive (by rw [hst]; decide)) rfl fun hk => by cases hk
  moves _ _ _ _ _ := by rw [hst]; simp [mayMove, toneOnMove, undone, hst, hi]

/-! ### `ONHOOK` with a waiting call, and `HANGUP` -/

/-- The call that rings back (R141). -/
theorem ringMoved_shift (hi : isOnhook i = true) (hst : s.line.st.isCall = true) (hcw : s.banks.cw.owned = true) (timeout : Half) :
    Shift i s (ringMoved timeout s) where
  bank hs := by
    have hcwa : s.banks.cw.alloc = true := hs.owned_alloc .cw hcw
    refine hs.of_map (Equiv.swap Leg.r .cw).injective hcwa (.inl rfl) fun x => ?_
    rw [swap_r_cw]
    cases x
    case r => exact .inr ⟨hcwa, hcwa, rfl⟩
    case cw => exact .inl rfl
    case tw => exact .inl (hs.dropped .tw)
  spill hs := spillInv_of_none hs.par rfl rfl
  quiet _ _ := .of_busy (y := .offered) rfl (by decide) (by decide)
  call hb _ _ := .of_real fun x hx => by
    cases x
    case r => exact absurd rfl hx
    case cw => rfl
    case tw => exact congrArg Bank.owned (hb.dropped .tw)
  tone _ _ := .inl rfl
  mwi _ hs := hs.of_inactive (hs.inactive fun h => by rw [h] at hst; cases hst) rfl fun hk => by cases hk
  moves _ _ _ _ _ := by
    obtain hst | hst | hst := isCall_iff.mp hst <;> rw [hst] <;> simp_all [mayMove, toneOnMove, ringMoved]

/-- The call that takes the other's place (R393). -/
theorem takenOver_shift (hi : i = .hostHangup 0) {y : Leg} (hy : y ≠ .r) (hreal : s.banks.real.owned = true)
    (hown : (s.bank y).owned = true) : Shift i s (takenOver y (takeoverHeld y s) (takeoverWaiting y s) s) where
  bank hs := by
    have hya := hs.owned_alloc y hown
    rw [takenOver_eq hy]
    refine hs.of_map (Equiv.swap Leg.r y).injective ?_ (.inr rfl) fun x => ?_
    · cases y
      case r => exact absurd rfl hy
      all_goals exact hya
    · cases y
      case r => exact absurd rfl hy
      case cw =>
        rw [swap_r_cw]
        cases x
        case r => exact .inr ⟨hya, hya, rfl⟩
        case cw => exact .inl rfl
        case tw => exact hs.same id rfl rfl
      case tw =>
        rw [swap_r_tw]
        cases x
        case r => exact .inr ⟨hya, hya, rfl⟩
        case cw => exact hs.same id rfl rfl
        case tw => exact .inl rfl
  spill hs := by
    rw [takenOver_eq hy]
    exact spillInv_of_none hs.par rfl rfl
  quiet _ _ := by
    rw [takenOver_eq hy]
    exact .of_busy (y := .active) rfl (by decide) (by decide)
  call _ _ _ := by
    rw [takenOver_eq hy]
    refine .of_unowned (x := y) ?_ (y := .active) rfl (by decide)
    cases y
    case r => exact absurd rfl hy
    all_goals rfl
  tone _ := by
    rw [takenOver_eq hy]
    exact toneInv_of_none rfl
  mwi hq hs := by
    rw [takenOver_eq hy]
    exact hs.of_inactive (hs.inactive (hq.unowned_of_busy hown).1) rfl fun hk => by cases hk
  moves _ hq hc _ hne := by
    obtain ⟨hidle, hrel⟩ := hq.unowned_of_busy hown
    have hoff : s.line.st ≠ .offered := fun h => hy (hc.one h .r y hreal hown).symm
    rw [takenOver_eq hy] at hne ⊢
    subst hi
    cases hst : s.line.st <;> simp_all [mayMove, toneOnMove]

end Sys2Proof.Machine

end

/-! PROOFS. The host's words on legs and calls as `Shift`s. -/

section

namespace Sys2Proof.Machine

variable {s t u v : State} {i : Instr} {j k : Nat}

/-! ### Legs released, bound and swapped -/

/-- A leg other than Real is emptied. -/
theorem emptied_still {x : Leg} (hx : x ≠ .r) (s : State) : Still s (s.updBank x fun _ => Bank.empty) where
  st := rfl
  tone := rfl
  bank hs := by
    refine hs.of_map (σ := id) Function.injective_id ?_ hs.curleg fun y => ?_
    · cases x
      case r => exact absurd rfl hx
      all_goals exact hs.real_alloc
    · rw [State.bank_updBank]
      split
      · exact .inl rfl
      · exact hs.same id rfl rfl
  spill hs := hs.of_same rfl rfl rfl (by cases x <;> first | exact absurd rfl hx | rfl)
  quiet hs := ⟨fun hst => by
    obtain ⟨hown, hrest⟩ := hs.quiet hst
    refine ⟨fun y => ?_, hrest⟩
    rw [State.bank_updBank]
    split
    · rfl
    · exact hown y⟩
  call hs := hs.of_map id 1 fun y hy => by
    rw [State.bank_updBank] at hy
    split at hy
    · cases hy
    · exact hy
  mwi hs := hs.of_same rfl rfl rfl

theorem releaseLeg_still {x : Leg} (hx : x ≠ .r) (s : State) : Still s (releaseLeg x s) :=
  (emptied_still hx s).trans ((releaseLeg_acts x).spoken s).toTalk.aside.still

/-- A free leg is bound to a free handle. -/
theorem bound_still {x : Leg} (hx : (s.bank x).alloc = false) (h : Handle) (hh : ¬ handleUsed h s = true) :
    Still s (s.updBank x fun _ => freshBank h) where
  st := rfl
  tone := rfl
  bank hs := by
    have hfresh (y : Leg) (hy : (s.bank y).alloc = true) : (s.bank y).res ≠ h := fun he =>
      hh (handleUsed_iff.mpr ⟨y, hy, he⟩)
    have hxr : x ≠ .r := by
      rintro rfl
      exact absurd (hs.real_alloc.symm.trans hx) (by decide)
    refine ⟨?_, fun y z hyz hy hz => ?_, fun y hy => ?_, fun y hy => ?_, hs.curleg, fun y hy => ?_⟩
    · cases x
      case r => exact absurd rfl hxr
      all_goals exact hs.real_alloc
    · rw [State.bank_updBank] at hy hz ⊢
      rw [State.bank_updBank]
      by_cases hyx : y = x
      · have hzx : z ≠ x := fun hzx => hyz (hyx.trans hzx.symm)
        rw [if_neg hzx] at hz ⊢
        rw [if_pos hyx]
        exact (hfresh z hz).symm
      · rw [if_neg hyx] at hy ⊢
        by_cases hzx : z = x
        · rw [if_pos hzx]
          exact hfresh y hy
        · rw [if_neg hzx] at hz ⊢
          exact hs.distinct y z hyz hy hz
    · rw [State.bank_updBank] at hy ⊢
      split
      · rfl
      · next hyx => rw [if_neg hyx] at hy; exact hs.owned_alloc y hy
    · rw [State.bank_updBank] at hy ⊢
      split
      · rfl
      · next hyx => rw [if_neg hyx] at hy; exact hs.in3way_alloc y hy
    · rw [State.bank_updBank] at hy ⊢
      split at hy
      · cases hy
      · next hyx => rw [if_neg hyx]; exact hs.free y hy
  spill hs := by
    cases x
    case r => exact { par := hs.par, absent := hs.absent, unread := hs.unread, fits := hs.fits, suspended := hs.suspended,
                      saved := hs.saved, companded := fun _ => rfl }
    all_goals exact hs.of_same rfl rfl rfl rfl
  quiet hs := ⟨fun hst => by
    obtain ⟨hown, hrest⟩ := hs.quiet hst
    refine ⟨fun y => ?_, hrest⟩
    rw [State.bank_updBank]
    split
    · rfl
    · exact hown y⟩
  call hs := hs.of_map id 1 fun y hy => by
    rw [State.bank_updBank] at hy
    split at hy
    · cases hy
    · exact hy
  mwi hs := hs.of_same rfl rfl rfl

/-- `ALLOC_LEG` on a free leg: refused, or bound. -/
theorem allocLeg_shift {x : Leg} {ok conflict failed : State → State}
    (hok : ∀ t, t.bank x = freshBank (freeHandle s) → (∀ y, y ≠ x → t.bank y = s.bank y) → t.line = s.line → t.cfg = s.cfg →
      Shift i t (ok t))
    (hconf : Talk s (conflict s)) (hfail : ∀ t, Talk t (failed t)) : Shift i s (allocLeg x ok conflict failed s) := by
  cases hx : (s.bank x).alloc
  · rw [allocLeg_free hx]
    have hasked := asked_talk (lrWord (lineId s) (handleField (freeHandle s)) .openLine) s
    refine lrCase_cases (P := Shift i s) ?_ ((hasked.trans (hfail _)).aside.still.shift i)
    have hx' : ((asked (lrWord (lineId s) (handleField (freeHandle s)) .openLine) s).bank x).alloc = false := by
      rw [hasked.bank]; exact hx
    have hfree : ¬ handleUsed (freeHandle s) (asked (lrWord (lineId s) (handleField (freeHandle s)) .openLine) s) = true := by
      rw [handleUsed, hasked.banks]
      exact freeHandle_unused hx
    refine .before (hasked.aside.still.trans (bound_still hx' _ hfree)) (hok _ ?_ (fun y hy => ?_) hasked.line hasked.cfg)
    · exact State.bank_updBank_same _ _ _
    · rw [State.bank_updBank_other _ hy, hasked.bank]
  · rw [allocLeg_inUse hx]
    exact hconf.aside.still.shift i

theorem hostAllocBody_shift (leg : BitVec 2) (s : State) : Shift i s (hostAllocBody leg s) :=
  withLeg_cases (P := Shift i s)
    (fun _ _ => allocLeg_shift (fun t _ _ _ _ => (Still.refl t).shift i) (raise_talk _ s) fun t => raise_talk _ t)
    fun _ => (raise_talk _ s).aside.still.shift i

theorem hostReleaseBody_still (leg : BitVec 2) (s : State) : Still s (hostReleaseBody leg s) := by
  refine withLeg_cases (P := Still s) (fun x _ => ?_) fun _ => (raise_talk _ s).aside.still
  split
  · exact (raise_talk _ s).aside.still
  · next hx =>
    split
    · exact (raise_talk _ s).aside.still
    · exact (releaseLeg_still hx s).trans (reconcilePass_passes _).aside.still

/-- Another tone, or none, where one may play. -/
theorem toneSet_shift {x : Tone} (h : x = .none ∨ s.line.st = .offered ∨ s.line.st = .threeWayDialing) :
    Shift i s (s.updLine fun l => { l with tone := x }) where
  bank hs := { hs with }
  spill hs := hs.of_same rfl rfl rfl rfl
  quiet _ hs := ⟨hs.quiet⟩
  call _ _ hs := hs.of_map id 1 fun _ => id
  tone _ hne := h.resolve_left hne
  mwi _ hs := hs.of_same rfl rfl rfl
  moves _ _ _ _ hne := absurd rfl hne

/-- The banks of two allocated legs change places; with Real among them there is no spill. -/
theorem exchangeBanks_still {x y : Leg} (hne : x ≠ y) (hx : (s.bank x).alloc = true) (hy : (s.bank y).alloc = true)
    (hreal : x = .r ∨ y = .r → s.tx = SpillRegs.reset ∧ s.conf.confSusp = false) : Still s (exchangeBanks x y s) := by
  have hline : (exchangeBanks x y s).line = s.line := by rw [exchangeBanks_eq]
  have htx : (exchangeBanks x y s).tx = s.tx := by rw [exchangeBanks_eq]
  have hconf : (exchangeBanks x y s).conf = s.conf := by rw [exchangeBanks_eq]
  have hpar : (exchangeBanks x y s).par = s.par := by rw [exchangeBanks_eq]
  have hmwi : (exchangeBanks x y s).mwi = s.mwi := by rw [exchangeBanks_eq]
  have hbank (z : Leg) : (z ≠ x ∧ z ≠ y ∧ (exchangeBanks x y s).bank z = s.bank z ∧ Equiv.swap x y z = z) ∨
      ((s.bank z).alloc = true ∧ (s.bank (Equiv.swap x y z)).alloc = true ∧
        (exchangeBanks x y s).bank z = { s.bank (Equiv.swap x y z) with pend := (s.bank z).pend }) := by
    rw [exchangeBanks_bank hne]
    by_cases hzx : z = x
    · subst hzx
      rw [if_pos rfl, Equiv.swap_apply_left]
      exact .inr ⟨hx, hy, rfl⟩
    · by_cases hzy : z = y
      · subst hzy
        rw [if_neg hzx, if_pos rfl, Equiv.swap_apply_right]
        exact .inr ⟨hy, hx, rfl⟩
      · rw [if_neg hzx, if_neg hzy]
        exact .inl ⟨hzx, hzy, rfl, Equiv.swap_apply_of_ne_of_ne hzx hzy⟩
  have howned (z : Leg) : ((exchangeBanks x y s).bank z).owned = (s.bank (Equiv.swap x y z)).owned := by
    obtain ⟨-, -, h, hswap⟩ | ⟨-, -, h⟩ := hbank z <;> rw [h]
    rw [hswap]
  exact
    { st := by rw [hline]
      tone := by rw [hline]
      bank := fun hs => by
        refine hs.of_map (Equiv.swap x y).injective ?_ (by rw [hline]; exact hs.curleg) fun z => ?_
        · obtain ⟨-, -, h, -⟩ | ⟨-, ha, h⟩ := hbank .r
          · exact (congrArg Bank.alloc h).trans hs.real_alloc
          · exact (congrArg Bank.alloc h).trans ha
        · obtain ⟨-, -, h, hswap⟩ | ⟨-, ha, h⟩ := hbank z
          · rw [h, hswap]
            exact hs.same id rfl rfl
          · rw [h]
            exact .inr ⟨ha, ha, rfl⟩
      spill := fun hs => by
        by_cases hr : x = .r ∨ y = .r
        · obtain ⟨hreset, hsusp⟩ := hreal hr
          exact spillInv_of_none (hpar ▸ hs.par) (htx.trans hreset) (by rw [hconf]; exact hsusp)
        · obtain ⟨-, -, h, -⟩ | ⟨hz, -, -⟩ := hbank .r
          · exact hs.of_same hpar htx (by rw [hconf]) (congrArg Bank.linear h :)
          · obtain ⟨hxr, hyr⟩ := not_or.mp hr
            have h := exchangeBanks_bank hne .r s
            rw [if_neg (Ne.symm hxr), if_neg (Ne.symm hyr)] at h
            exact hs.of_same hpar htx (by rw [hconf]) (congrArg Bank.linear h :)
      quiet := fun hs => ⟨fun hst => by
        rw [hline] at hst ⊢
        obtain ⟨hown, hrest⟩ := hs.quiet hst
        exact ⟨fun z => (howned z).trans (hown _), hrest⟩⟩
      call := fun hs => hs.of_map (by rw [hline]; exact id) (Equiv.swap x y) fun z hz => (howned z).symm.trans hz
      mwi := fun hs => hs.of_same (by rw [hline]) (by rw [htx]) (by rw [hmwi]) }

/-- `SWAP` of two allocated legs. -/
theorem doSwap_shift {x y : Leg} (hne : x ≠ y) (hx : (s.bank x).alloc = true) (hy : (s.bank y).alloc = true) :
    Shift i s (doSwap x y s) := by
  have htalk := ((doSwap_acts x y).spoken s).toTalk.aside.still
  refine Shift.after ?_ htalk
  by_cases hr : x = .r ∨ y = .r
  · rw [readied_of_real hr]
    have haside := discarded_aside (toneStopped s)
    have halloc (z : Leg) : ((discarded (toneStopped s)).bank z).alloc = (s.bank z).alloc := haside.alloc z
    exact ((toneSet_shift (.inl rfl)).after haside.still).after
      (exchangeBanks_still hne ((halloc x).trans hx) ((halloc y).trans hy) fun _ => ⟨rfl, rfl⟩)
  · obtain ⟨hxr, hyr⟩ := not_or.mp hr
    rw [readied_of_others hxr hyr]
    exact (exchangeBanks_still hne hx hy fun h => absurd h hr).shift i

theorem hostSwapBody_shift (a b : BitVec 2) (s : State) : Shift i s (hostSwapBody a b s) := by
  have hraise (e : ErrCode) : Shift i s (raise e s) := (raise_talk e s).aside.still.shift i
  refine withLeg_cases (P := Shift i s) (fun x _ => ?_) fun _ => hraise _
  refine withLeg_cases (P := Shift i s) (fun y _ => ?_) fun _ => hraise _
  split
  · exact (Still.refl s).shift i
  · next hne =>
    split
    · exact hraise _
    · next halloc =>
      simp only [Bool.or_eq_true, Bool.not_eq_true', not_or, Bool.not_eq_false] at halloc
      exact (doSwap_shift hne halloc.1 halloc.2).after (reconcilePass_passes _).aside.still

/-! ### `HANGUP` (R392) -/

theorem legOf_eq_some : ∀ leg : BitVec 2,
    (legOf leg = some .r → leg = 0) ∧ (legOf leg = some .cw → leg = 1) ∧ (legOf leg = some .tw → leg = 2) := by
  decide

/-- The moves of a word that may hang up. -/
theorem mayMove_releasing {x : CallState} (hidle : x ≠ .idle) (hrel : x ≠ .releasing) (hi : mayHangUp i = true)
    (hoff : x = .offered → isWinkflash i = false ∧ isPolarity i = false) : mayMove x .releasing i = true := by
  cases x <;> simp_all [mayMove]

/-- Where the call on hold is the only one left, it is Active again. -/
def holdEnded (s : State) : State :=
  s.updLine fun l =>
    { l with
      st := if l.st = .onHold then .active else l.st
      tone := if l.st = .onHold then .none else l.tone
      cwrepeat := 0 }

theorem holdEnded_shift (hi : i = .hostHangup 1) (s : State) : Shift i s (holdEnded s) := by
  by_cases hst : s.line.st = .onHold
  · refine callLine_shift (y := .active) (by rw [hst]; decide) (by simp [hst]) rfl (by simp [hst]) (.inr rfl) ?_ ?_ <;>
      simp [hst, mayMove, toneOnMove, hi]
  · refine (updLine_still (by simp [hst]) (by simp [hst]) rfl fun hs => ⟨fun h => ?_⟩).shift i
    simp only [State.updLine_line, if_neg hst] at h
    obtain ⟨hown, hhook, hringing, hringt, hdir, hcur, hans, hflash, hpend, hdialing, -⟩ := hs.quiet h
    exact ⟨hown, hhook, hringing, hringt, hdir, hcur, hans, hflash, hpend, hdialing, rfl⟩

theorem cwHungUp_eq (s : State) :
    cwHungUp s = (holdEnded (if s.tx.kind = .cwcid then discarded s else s)).updBank .cw fun _ => Bank.empty := by
  rw [cwHungUp]
  split <;> rfl

theorem hangupCw_shift (hi : i = .hostHangup 1) (s : State) : Shift i s (hangupCw s) := by
  refine Shift.after ?_ (hangupCw_passes s).aside.still
  have hd : Aside s (if s.tx.kind = .cwcid then discarded s else s) := by
    split
    · exact discarded_aside s
    · exact .refl s
  rw [cwHungUp_eq]
  exact .before hd.still ((holdEnded_shift hi _).after (emptied_still (by decide) _))

/-- Real leaves the three-way. -/
theorem alone_still (s : State) : Still s (s.updBank .r fun b => { b with in3way := false }) where
  st := rfl
  tone := rfl
  bank hs := by
    refine hs.of_map (σ := id) Function.injective_id hs.real_alloc hs.curleg fun x => ?_
    cases x
    case r => exact .inr ⟨hs.real_alloc, hs.real_alloc, rfl⟩
    all_goals exact hs.same id rfl rfl
  spill hs := hs.of_same rfl rfl rfl rfl
  quiet hs := ⟨fun hst => by
    obtain ⟨hown, hrest⟩ := hs.quiet hst
    exact ⟨fun x => Eq.trans (by cases x <;> rfl) (hown x), hrest⟩⟩
  call hs := hs.of_owned rfl fun x => by cases x <;> rfl
  mwi hs := hs.of_same rfl rfl rfl

theorem twHungUp_shift (hi : i = .hostHangup 2) (htw : s.banks.tw.owned = true) : Shift i s (twHungUp s) := by
  by_cases hst : s.line.st = .threeWayDialing
  · have hline : (twHungUp s).line =
        { s.line with
          st := .offered, calldir := .inbound, ringing := false, answered := false, flashV := false
          tone := if s.line.tone = .dialrecall then .dialtone else .none } := if_pos hst
    have hoff : (twHungUp s).line.st = .offered := congrArg LineRegs.st hline
    exact
      { bank := fun hs => by
          refine hs.of_map (σ := id) Function.injective_id hs.real_alloc (by rw [hline]; exact hs.curleg) fun x => ?_
          cases x
          case r => exact .inr ⟨hs.real_alloc, hs.real_alloc, rfl⟩
          case cw => exact hs.same id rfl rfl
          case tw => exact .inl rfl
        spill := fun hs => hs.of_same rfl rfl rfl rfl
        quiet := fun _ _ => .of_busy hoff (by decide) (by decide)
        call := fun _ _ hs => by
          refine ⟨fun ⟨_, _, h⟩ => absurd h Bool.false_ne_true, fun _ x y hx hy => ?_⟩
          have hno : ¬ (s.banks.real.owned = true ∧ s.banks.cw.owned = true) := fun ⟨hr, hcw⟩ => hs.two ⟨hr, hcw, htw⟩
          cases x with
          | tw => exact absurd hx Bool.false_ne_true
          | r =>
            cases y with
            | r => rfl
            | cw => exact absurd ⟨hx, hy⟩ hno
            | tw => exact absurd hy Bool.false_ne_true
          | cw =>
            cases y with
            | r => exact absurd ⟨hy, hx⟩ hno
            | cw => rfl
            | tw => exact absurd hy Bool.false_ne_true
        tone := fun _ _ => .inl hoff
        mwi := fun _ hs => hs.of_inactive (hs.inactive (by rw [hst]; decide)) rfl id
        moves := fun _ _ _ _ _ => by
          rw [hline, hst]
          subst hi
          simp [mayMove, toneOnMove, hst, isOnhook] }
  · have heq : twHungUp s = (s.updBank .tw fun _ => Bank.empty).updBank .r fun b => { b with in3way := false } := by
      rw [twHungUp, if_neg hst]
      rfl
    rw [heq]
    exact ((emptied_still (by decide) s).trans (alone_still _)).shift i

/-- `LINEDOWN` by a word that may do so. -/
theorem lineDown_shift (cause : Cause) (skip : Option Leg)
    (h : QuietInv s → s.line.st ≠ .idle ∧ (s.line.st ≠ .releasing → mayMove s.line.st .releasing i = true)) :
    Shift i s (lineDown cause skip s) := (downed_shift h).after (lineDown_aside cause skip s).still

theorem hangupReal_shift (hi : i = .hostHangup 0) (hown : s.banks.real.owned = true) : Shift i s (hangupReal s) := by
  have htake {y : Leg} (hy : y ≠ .r) (hyo : (s.bank y).owned = true) : Shift i s (takeover y s) :=
    (takenOver_shift hi hy hown hyo).after (takeover_passes hy s).aside.still
  unfold hangupReal
  split
  · next hcw => exact htake (by decide) hcw
  · split
    · next htw => exact htake (by decide) htw
    · refine lineDown_shift _ _ fun hq => ?_
      obtain ⟨hidle, hrel⟩ := hq.unowned_of_busy (x := .r) hown
      exact ⟨hidle, fun _ => mayMove_releasing hidle hrel (by rw [hi]; rfl) fun _ => by rw [hi]; exact ⟨rfl, rfl⟩⟩

theorem hostHangupBody_shift (leg : BitVec 2) (s : State) : Shift (.hostHangup leg) s (hostHangupBody leg s) := by
  have hraise (e : ErrCode) : Shift (.hostHangup leg) s (raise e s) := (raise_talk e s).aside.still.shift _
  refine withLeg_cases (P := Shift (.hostHangup leg) s) (fun x hleg => ?_) fun _ => hraise _
  obtain ⟨hr, hcw, htw⟩ := legOf_eq_some leg
  split
  · exact hraise _
  · next hown =>
    have hown : (s.bank x).owned = true := by simpa using hown
    cases x
    case r => exact hangupReal_shift (by rw [hr hleg]) hown
    case cw => exact hangupCw_shift (by rw [hcw hleg]) s
    case tw => exact (twHungUp_shift (by rw [htw hleg]) hown).after (hangupTw_passes s).aside.still

/-! ### `CWOFFER`, `POLL`, `SETLINEAR`, `INDICATE`, and the words on the conference -/

/-- The waiting call of an Active line with no other leg (R394). -/
theorem offered_shift {h : Handle} (tag : Byte) (hst : s.line.st = .active) (hcw : s.bank .cw = freshBank h)
    (htw : s.banks.tw.alloc = false) :
    Shift i s (s.updBank .cw fun b => Bank.setPend .needRinging (Bank.own tag b)) where
  bank hs := by
    have hcwa : (s.bank .cw).alloc = true := by rw [hcw]; rfl
    refine hs.of_map (σ := id) Function.injective_id hs.real_alloc hs.curleg fun x => ?_
    cases x
    case r => exact hs.same id rfl rfl
    case cw => exact .inr ⟨hcwa, hcwa, rfl⟩
    case tw => exact hs.same id rfl rfl
  spill hs := hs.of_same rfl rfl rfl rfl
  quiet _ _ := .of_busy hst (by decide) (by decide)
  call hb _ _ := .of_unowned (x := .tw) (y := .active) (Bool.eq_false_iff.mpr fun how => by
    have ha := hb.owned_alloc .tw how
    rw [show (s.bank .tw).alloc = false from htw] at ha
    cases ha) hst (by decide)
  tone hs := hs
  mwi _ hs := hs.of_same rfl rfl rfl
  moves _ _ _ _ hne := absurd rfl hne

theorem hostCwofferBody_shift (tag : Byte) (s : State) : Shift i s (hostCwofferBody tag s) := by
  have hrefuse (e : ErrCode) (t : State) : Talk t (refuseCw e tag t) := (raise_talk e t).trans (emit_talk _ _)
  unfold hostCwofferBody
  split
  · exact (hrefuse _ s).aside.still.shift i
  · next hopen =>
    have hst : s.line.st = .active := by simp at hopen; exact hopen.1.2
    split
    · exact (hrefuse _ s).aside.still.shift i
    · next hbusy =>
      simp only [Bool.or_eq_true, not_or, Bool.not_eq_true] at hbusy
      refine allocLeg_shift (fun t hcw hother hline _ => ?_) (hrefuse _ s) fun t => hrefuse _ t
      have htw : t.banks.tw.alloc = false := by
        have h := hother .tw (by decide)
        exact (congrArg Bank.alloc h).trans hbusy.2
      exact (offered_shift tag (by rw [hline]; exact hst) hcw htw).after
        (cwAlert_aside (s := t.updBank .cw fun b => Bank.setPend .needRinging (Bank.own tag b)) (hline ▸ hst)).still

theorem hostPollBody_still (leg : BitVec 2) (s : State) : Still s (hostPollBody leg s) :=
  withLeg_cases (P := Still s)
    (fun _ _ => ((emit_talk _ s).aside.trans (updBank_aside rfl rfl fun _ => rfl)).still)
    fun _ => (raise_talk _ s).aside.still

/-- The linear mode of an allocated leg. -/
theorem linearSet_aside {x : Leg} (b : Bool) (hx : (s.bank x).alloc = true) (hgo : x = .r → s.tx.go = false) :
    Aside s (s.updBank x fun k => { k with linear := b }) where
  par := rfl
  line := rfl
  cwrepeat _ := id
  banks y := by
    rw [State.bank_updBank]
    split <;> rfl
  free y _ he := by
    have hyx : y ≠ x := by
      rintro rfl
      rw [he] at hx
      cases hx
    rw [State.bank_updBank_other _ hyx]
    exact he
  spill hs := by
    cases x
    case r => exact { par := hs.par, absent := hs.absent, unread := hs.unread, fits := hs.fits, suspended := hs.suspended,
                      saved := hs.saved, companded := fun h => absurd ((hgo rfl).symm.trans h) (by decide) }
    all_goals exact hs.of_same rfl rfl rfl rfl
  mwi hs := hs.of_same rfl rfl rfl

theorem hostSetlinearBody_still (leg : BitVec 2) (b : Bool) (s : State) : Still s (hostSetlinearBody leg b s) := by
  refine withLeg_cases (P := Still s) (fun x _ => ?_) fun _ => (raise_talk _ s).aside.still
  split
  · exact (raise_talk _ s).aside.still
  · next hx =>
    split
    · next hgo =>
      have hgo : x = .r ∧ s.tx.go = true := by simpa using hgo
      exact
        { st := rfl, tone := rfl, bank := fun hs => { hs with }, quiet := fun hs => ⟨hs.quiet⟩, call := fun hs => ⟨hs.two, hs.one⟩
          mwi := fun hs => hs.of_same rfl rfl rfl
          spill := fun hs =>
            { par := hs.par, absent := hs.absent, unread := hs.unread, fits := hs.fits, suspended := hs.suspended
              saved := fun _ => hgo.2, companded := hs.companded } }
    · next hgo =>
      split
      · have hasked := asked_talk (lrWord (lineId s) (legH x s) (.setLinear b)) s
        refine lrCase_cases (P := Still s) (hasked.aside.trans (linearSet_aside b ?_ ?_)).still
          (hasked.trans (raise_talk _ _)).aside.still
        · rw [hasked.bank]
          simpa using hx
        · intro hr
          rw [hasked.tx]
          simpa [hr] using hgo
      · exact .refl s

theorem hostIndicateBody_shift (cond : BitVec 2) (s : State) : Shift i s (hostIndicateBody cond s) := by
  unfold hostIndicateBody
  split
  · exact (raise_talk _ s).aside.still.shift i
  · next hset =>
    have hst : s.line.st = .offered ∨ s.line.st = .threeWayDialing := by
      simp only [settingUp, Bool.not_eq_true', Bool.not_eq_false, Bool.and_eq_true, Bool.or_eq_true, beq_iff_eq] at hset
      obtain ⟨-, h | ⟨h, -⟩⟩ := hset
      · exact .inr h
      · exact .inl h
    have hacts := stopTone_acts.then (Acts.onlyIf (c := fun _ => indicatedTone cond != .none) (fun _ _ _ _ _ => rfl)
      (startTone_acts (indicatedTone cond)))
    refine Shift.after ?_ (hacts.spoken s).toTalk.aside.still
    cases hc : indicatedTone cond != .none
    · rw [onlyIf_false rfl]
      exact toneSet_shift (.inl rfl)
    · rw [onlyIf_true rfl]
      exact toneSet_shift (.inr hst)

/-- The conference registers but for the suspension are not seen by the calls. -/
theorem topology_still {f : ConfRegs → ConfRegs} (hsusp : (f s.conf).confSusp = s.conf.confSusp) :
    Still s (reconcilePass (s.updConf f)) :=
  (aside_of_same (s := s) (t := s.updConf f) rfl rfl (fun _ => id) (fun _ => rfl) (fun _ _ => id) rfl hsusp rfl rfl).trans
    (reconcilePass_passes _).aside |>.still

theorem hostSlaveaddBody_still (line : Byte) (law : Bool) (s : State) : Still s (hostSlaveaddBody line law s) := by
  unfold hostSlaveaddBody
  split
  · exact (raise_talk _ s).aside.still
  · split
    · exact topology_still rfl
    · split
      · exact (raise_talk _ s).aside.still
      · exact topology_still rfl

theorem hostSlavedelBody_still (line : Byte) (s : State) : Still s (hostSlavedelBody line s) := by
  unfold hostSlavedelBody
  split
  · exact (raise_talk _ s).aside.still
  · exact (Aside.onlyIf fun _ => (lrTry_talk _ _ _ s).aside).still.trans (topology_still rfl)

theorem hostMastersetBody_still (line : Byte) (valid native : Bool) (confno : Byte) (s : State) :
    Still s (hostMastersetBody line valid native confno s) := by
  unfold hostMastersetBody
  split
  · exact (raise_talk _ s).aside.still
  · exact topology_still rfl

end Sys2Proof.Machine

end

/-! PROOFS. Every event word as a `Shift`, and the invariants of the calls that every step keeps (O7, O9, O10, O11, O12). -/

section

namespace Sys2Proof.Machine

variable {s t u v : State} {i : Instr} {j k : Nat}

theorem Talk.shift (h : Talk s t) (i : Instr) : Shift i s t := h.aside.still.shift i

/-! ### Line events -/

theorem hookSet_still (b : Bool) (h : s.line.st = .idle ∨ s.line.st = .releasing → b = false) : Still s (setHookReg b s) :=
  updLine_still rfl rfl rfl fun hs => ⟨fun hst => by
    obtain ⟨hown, -, hrest⟩ := hs.quiet hst
    exact ⟨hown, h hst, hrest⟩⟩

theorem pendReal_aside (p : PendBit) (s : State) : Aside s (pendReal p s) :=
  updBank_aside rfl rfl fun h => absurd rfl h

theorem notQuiet_of_isCall (h : s.line.st.isCall = true) : s.line.st ≠ .idle ∧ s.line.st ≠ .releasing ∧ s.line.st ≠ .offered := by
  cases hst : s.line.st <;> simp_all [CallState.isCall]

/-- A call is hung up by a word that may hang up. -/
theorem lineDown_call_shift (cause : Cause) (skip : Option Leg) (hst : s.line.st.isCall = true) (hi : mayHangUp i = true) :
    Shift i s (lineDown cause skip s) := by
  obtain ⟨hidle, hrel, hoff⟩ := notQuiet_of_isCall hst
  exact lineDown_shift cause skip fun _ => ⟨hidle, fun _ => mayMove_releasing hidle hrel hi fun h => absurd h hoff⟩

theorem lineDown_offered_shift (cause : Cause) (skip : Option Leg) (hst : s.line.st = .offered) (hi : mayHangUp i = true)
    (hno : isWinkflash i = false ∧ isPolarity i = false) : Shift i s (lineDown cause skip s) :=
  lineDown_shift cause skip fun _ => by
    rw [hst]
    exact ⟨by decide, fun _ => mayMove_releasing (by decide) (by decide) hi fun _ => hno⟩

theorem ringBackTell_aside (held : Bool) (s : State) : Aside s (ringBackTell held s) :=
  (pendReal_aside _ s).trans (.onlyIf fun _ => pendReal_aside _ _)

theorem onhookInCall_shift (hi : isOnhook i = true) (hhang : mayHangUp i = true) (hst : s.line.st.isCall = true) :
    Shift i s (onhookInCall s) := by
  unfold onhookInCall
  split
  · next hcw =>
    exact ((ringMoved_shift hi hst hcw _).after (ringBackTell_aside _ _).still).after (onhookRingBack_passes s).aside.still
  · exact lineDown_call_shift _ _ hst hhang

theorem onhookBody_shift (hi : isOnhook i = true) (hno : isWinkflash i = false ∧ isPolarity i = false) (s : State) :
    Shift i s (onhookBody s) := by
  have hhang : mayHangUp i = true := by simp [mayHangUp, hi]
  unfold onhookBody
  refine .before (hookSet_still false fun _ => rfl) ?_
  unfold onhookCase
  cases hst : (setHookReg false s).line.st
  case idle | releasing => exact (Still.refl _).shift i
  case offered =>
    show Shift i _ (onhookOffered _ _)
    unfold onhookOffered
    split
    · exact lineDown_offered_shift _ _ hst hhang hno
    · exact (raise_talk _ _).shift i
  all_goals exact onhookInCall_shift hi hhang (by rw [hst]; rfl)

theorem establish_shift (hst : s.line.st = .offered) (hm : mayMove .offered .active i = true) : Shift i s (establish s) :=
  (established_shift hst hm).after (establish_passes s).aside.still

theorem hookOn_still (hst : s.line.st = .offered) : Still s (setHookReg true s) :=
  hookSet_still true (by rw [hst]; simp)

theorem answerOffered_shift (hm : mayMove .offered .active i = true) (hst : s.line.st = .offered) : Shift i s (answerOffered s) := by
  unfold answerOffered
  split
  · have hd := spillDiscard_aside (setHookReg true s)
    exact .before ((hookOn_still hst).trans hd.still)
      ((establish_shift (hd.st.trans hst) hm).after (pendReal_aside _ _).still)
  · split
    · exact .before (hookOn_still hst) ((establish_shift (s := setHookReg true s) hst hm).after (pendReal_aside _ _).still)
    · exact (raise_talk _ s).shift i

/-- Off-hook on a line that is not Idle. -/
theorem offhookCase_busy_shift (hm : mayMove .offered .active i = true) (hidle : s.line.st ≠ .idle) : Shift i s (offhookCase s) := by
  unfold offhookCase
  cases hst : s.line.st
  case idle => exact absurd hst hidle
  case offered => exact answerOffered_shift hm hst
  case releasing => exact (Still.refl s).shift i
  all_goals exact (raise_talk _ s).shift i

theorem offhookBody_shift (hi : isOffhook i = true) (s : State) : Shift i s (offhookBody s) := by
  unfold offhookBody
  refine .before (mwiAbortIfActive_aside s).still ?_
  by_cases hst : (mwiAbortIfActive s).line.st = .idle
  · rw [offhookCase_idle hst]
    exact (seized_shift hi hst (mwiAbortIfActive_rests s)).after (seize_acts.spoken _).toTalk.aside.still
  · exact offhookCase_busy_shift (by simp [mayMove, hi]) hst

theorem ringBurstFirst_shift (hi : isRingbegin i = true ∨ isRingoffhook i = true) (hno : isOffhook i = false)
    (hst : s.line.st = .idle) : Shift i s (ringBurstFirst s) := by
  have hab := mwiAbortIfActive_aside s
  have hbody : ringBurstFirst s =
      (cidrxOnRing true (indicateLeg .r .spawnSetup (ringOpen (mwiAbortIfActive s)))).updRx
        fun r => { r with lastringT := s.line.now } := by
    rw [ringOpen, (mwiAbortIfActive_run s).kept.par, (mwiAbortIfActive_run s).kept.cfg]
    rfl
  rw [hbody]
  refine .before hab.still ((ringOpened_shift hi hno (hab.st.trans hst) (mwiAbortIfActive_rests s)).after ?_)
  exact ((ringOpen_talk _).aside.trans ((emit_talk _ _).aside.trans
    ((cidrxOnRing_receives true _).aside.trans (updRx_receives _ _).aside))).still

theorem ringBurstNext_still (hst : s.line.st = .offered) : Still s (ringBurstNext s) := by
  have hline : Still (s.updRx fun r => { r with ringcnt := countUp r.ringcnt })
      ((s.updRx fun r => { r with ringcnt := countUp r.ringcnt }).updLine
        fun l => { l with ringt := ticksOf s.par (cfgRingTimeoutMs s.cfg) }) :=
    updLine_still rfl rfl rfl fun _ => .of_busy (y := .offered) hst (by decide) (by decide)
  exact (updRx_receives _ s).aside.still.trans (hline.trans
    ((cidrxOnRing_receives false _).aside.trans (updRx_receives _ _).aside).still)

theorem ringBurst_shift (hi : isRingbegin i = true ∨ isRingoffhook i = true) (hno : isOffhook i = false)
    (h : takesBurst s = true) : Shift i s (ringBurst s) := by
  refine ifElse_cases (P := Shift i s) (fun hidle => ringBurstFirst_shift hi hno (by simpa using hidle)) fun hidle => ?_
  have hst : s.line.st = .offered := by
    have hidle : s.line.st ≠ .idle := by simpa using hidle
    simp only [takesBurst, Bool.or_eq_true, Bool.and_eq_true, beq_iff_eq] at h
    obtain h | ⟨⟨h, -⟩, -⟩ := h
    · exact absurd h hidle
    · exact h
  exact (ringBurstNext_still hst).shift i

theorem takesBurst_of_idle (h : s.line.st = .idle) : takesBurst s = true := by simp [takesBurst, h]

theorem ringoffhookBody_shift (hi : isRingoffhook i = true) (hno : isOffhook i = false) (s : State) :
    Shift i s (ringoffhookBody s) := by
  unfold ringoffhookBody
  refine .before (mwiAbortIfActive_aside s).still ?_
  refine ifElse_cases (P := Shift i _) (ringBurst_shift (.inr hi) hno) fun h => ?_
  exact offhookCase_busy_shift (by simp [mayMove, hi]) fun hst => by rw [takesBurst_of_idle hst] at h; cases h

theorem ringbeginBody_shift (hi : isRingbegin i = true) (hno : isOffhook i = false) (s : State) : Shift i s (ringbeginBody s) :=
  ifElse_cases (P := Shift i s) (ringBurst_shift (.inl hi) hno) fun _ => (raise_talk _ s).shift i

theorem ringoffBody_aside (s : State) : Aside s (ringoffBody s) := by
  unfold ringoffBody
  split
  · next h => exact mwiRingOff_aside (by simpa using h)
  · split
    · next h =>
      refine spillStart_aside ?_
      have hkind : s.tx.kind = .cid := by simp at h; exact h.1.2
      rw [hkind]
      decide
    · exact .refl s

theorem dialcompleteBody_still (s : State) : Still s (dialcompleteBody s) := by
  unfold dialcompleteBody
  split
  · exact (raise_talk _ s).aside.still
  · refine Still.trans (updLine_still rfl rfl rfl fun hs => ⟨fun hst => ?_⟩) (Aside.onlyIf fun _ => pendReal_aside _ _).still
    obtain ⟨hown, hhook, hringing, hringt, hdir, hcur, hans, hflash, hpend, -, hrep⟩ := hs.quiet hst
    exact ⟨hown, hhook, hringing, hringt, hdir, hcur, hans, hflash, hpend, rfl, hrep⟩

theorem polarityBody_shift (hi : isPolarity i = true) (s : State) : Shift i s (polarityBody s) := by
  have hhang : mayHangUp i = true := by simp [mayHangUp, hi]
  unfold polarityBody
  refine .before (updLine_aside (s := s) (f := fun l => { l with pol := true }) rfl fun _ => id).still ?_
  generalize s.updLine (fun l => { l with pol := true }) = u
  unfold polarityCase
  cases hst : u.line.st
  case idle => exact (Aside.onlyIf fun _ => (cidrxOnPolarity_receives u).aside).still.shift i
  case offered =>
    refine onlyIf_cases (P := Shift i u) (fun _ => ?_) fun _ => (Still.refl u).shift i
    exact (establish_shift hst (by simp [mayMove, hi])).after (pendReal_aside _ _).still
  case releasing => exact (Still.refl u).shift i
  all_goals
    exact onlyIf_cases (P := Shift i u) (fun _ => lineDown_call_shift _ _ (by rw [hst]; rfl) hhang)
      fun _ => (Still.refl u).shift i

theorem setAlarm_aside (b : Bool) (s : State) : Aside s (setAlarm b s) := updLine_aside rfl fun _ => id

theorem alarmBody_shift (hi : isAlarm i = true) (hno : isWinkflash i = false ∧ isPolarity i = false) (s : State) :
    Shift i s (alarmBody s) := by
  have hhang : mayHangUp i = true := by simp [mayHangUp, hi]
  unfold alarmBody
  refine .before ((setAlarm_aside true s).trans (mwiAbortIfActive_aside _)).still ?_
  generalize mwiAbortIfActive (setAlarm true s) = u
  refine ifElse_cases (P := Shift i u) (fun h => lineDown_shift _ _ fun _ => ?_) fun _ =>
    (Aside.onlyIf fun _ => (cidrxReset_receives u).aside.trans (clearPrering_receives _).aside).still.shift i
  have h : u.line.st ≠ .idle ∧ u.line.st ≠ .releasing := by simpa using h
  exact ⟨h.1, fun _ => mayMove_releasing h.1 h.2 hhang fun _ => hno⟩

theorem deliverDigit_talk (d : Byte) (pulse : Bool) (s : State) : Talk s (deliverDigit d pulse s) := by
  unfold deliverDigit
  split
  · exact emit_talk _ s
  · exact raise_talk _ s

theorem pulsedigitBody_aside (d : Byte) (s : State) : Aside s (pulsedigitBody d s) := by
  unfold pulsedigitBody
  split
  · exact (raise_talk _ s).aside
  · exact (deliverDigit_talk d true s).aside

theorem dtmfdigitBody_aside (d : Byte) (s : State) : Aside s (dtmfdigitBody d s) := by
  unfold dtmfdigitBody
  split
  · exact (raise_talk _ s).aside
  · split
    · exact .refl s
    · split
      · exact (cidrxDtmf_receives d s).aside
      · exact (deliverDigit_talk d false s).aside

/-! ### Flashes -/

theorem stampFlash_still (hst : s.line.st.isCall = true) : Still s (stampFlash s) := by
  obtain ⟨hidle, hrel, -⟩ := notQuiet_of_isCall hst
  exact updLine_still rfl rfl rfl fun _ => .of_busy (y := s.line.st) rfl hidle hrel

theorem flashDrop_still (hst : s.line.st.isCall = true) : Still s (flashDrop s) :=
  ((stampFlash_still hst).trans ((emptied_still (x := .tw) (by decide) _).trans (alone_still _))).trans
    (flashDrop_passes s).aside.still

theorem flashBuild_shift (hi : isWinkflash i = true) (hcw : s.banks.cw.owned = false) : Shift i s (flashBuild s) := by
  unfold flashBuild
  split
  · exact (raise_talk _ s).shift i
  · next h =>
    have hst : s.line.st = .active := by simp at h; exact h.2
    refine allocLeg_shift (fun t htw hother hline _ => ?_) (raise_talk _ s) fun t => raise_talk _ t
    have hcw' : t.banks.cw.owned = false := (congrArg Bank.owned (hother .cw (by decide)) :).trans hcw
    have htwa : t.banks.tw.alloc = true := (congrArg Bank.alloc htw :)
    exact (built_shift hi (by rw [hline]; exact hst) hcw' htwa).after (flashBuildAllocated_passes t).aside.still

theorem flashDispatch_shift (hi : isWinkflash i = true) (hrel : s.line.st ≠ .releasing) : Shift i s (flashDispatch s) := by
  unfold flashDispatch
  split
  · exact (raise_talk _ s).shift i
  · next hbusy =>
    have hst : s.line.st.isCall = true := by
      simp only [Bool.or_eq_true, not_or, beq_iff_eq] at hbusy
      obtain ⟨⟨-, hidle⟩, hoff⟩ := hbusy
      cases h : s.line.st <;> simp_all [CallState.isCall]
    split
    · next hcw => exact (swappedOver_shift hi hst hcw _).after (flashSwap_passes s).aside.still
    · next hcw =>
      split
      · next htw =>
        split
        · exact lineDown_call_shift _ _ hst (by simp [mayHangUp, hi])
        · split
          · next hd => exact (undone_shift hi (by simpa using hd) htw).after (flashUndo_passes s).aside.still
          · split
            · exact (flashDrop_still hst).shift i
            · exact (merged_shift hst htw).after (flashMerge_passes s).aside.still
      · exact flashBuild_shift hi (by simpa using hcw)

theorem trunkWink_still (s : State) : Still s (trunkWink s) := by
  unfold trunkWink
  split
  · next hpend =>
    have hasked := asked_talk (lrWord (lineId s) (realH s) (.dial s.line.diallen)) s
    refine lrCase_cases (P := Still s) (hasked.aside.still.trans (updLine_still rfl rfl rfl fun hs => ⟨fun hst => ?_⟩))
      (hasked.trans (raise_talk _ _)).aside.still
    obtain ⟨-, -, -, -, -, -, -, -, hno, -⟩ := hs.quiet hst
    rw [hasked.line, hpend] at hno
    cases hno
  · split
    · exact (pendReal_aside _ s).still
    · exact (raise_talk _ s).aside.still

theorem winkflash_shift (hi : isWinkflash i = true) (hrel : s.line.st ≠ .releasing) : Shift i s (winkflash s) := by
  unfold winkflash
  cases familyOf s.cfg
  case loop => exact flashDispatch_shift hi hrel
  case trunk => exact (trunkWink_still s).shift i
  case radio => exact (Still.refl s).shift i

/-! ### `CALL` and `UP` -/

theorem refuseCall_talk (e : ErrCode) (tag : Byte) (s : State) : Talk s (refuseCall e tag s) :=
  (raise_talk e s).trans (emit_talk _ _)

theorem callClear_aside (s : State) : Aside s (callClear s) :=
  (cidrxReset_receives s).aside.trans ((clearPrering_receives _).aside.trans (updLine_aside rfl fun _ => id))

/-- Receiver, `PRERING` and a Caller-ID spill leave the MWI engine as it is. -/
theorem callRingAccepted_shift (hi : isCallWord i = true) (hno : isOffhook i = false) (tag : Byte) (hst : s.line.st = .idle)
    (hm : s.mwi.st.isActive = false) : Shift i s (callRingAccepted tag s) := by
  have hbody : callRingAccepted tag s =
      rungFor tag (ticksOf s.par (cfgRingTimeoutMs s.cfg))
        (onlyIf (fun s => hasFeature s.cfg .cidTx) (cidGenerate .cid) (callClear s)) := rfl
  have hgen : Aside s (onlyIf (fun s => hasFeature s.cfg .cidTx) (cidGenerate .cid) (callClear s)) ∧
      (onlyIf (fun s => hasFeature s.cfg .cidTx) (cidGenerate .cid) (callClear s)).mwi = s.mwi := by
    refine onlyIf_cases (P := fun t => Aside s t ∧ t.mwi = s.mwi) (fun _ => ⟨?_, ?_⟩) fun _ => ⟨callClear_aside s, rfl⟩
    · exact (callClear_aside s).trans (cidGenerate_aside (.inl rfl) _)
    · exact ((cidGenerate_acts .cid).spoken (callClear s)).toTalk.mwi
  obtain ⟨hgen, hmwi⟩ := hgen
  rw [hbody]
  exact .before hgen.still (rungFor_shift hi hno tag _ (hgen.st.trans hst) (by rw [hmwi]; exact hm))

theorem callDigits_still (n : Byte) (hst : s.line.st = .offered) : Still s (callDigits n s) := by
  have hbusy {f : LineRegs → LineRegs} {t : State} (ht : Still s t) (hf : (f t.line).st = t.line.st)
      (htone : (f t.line).tone = t.line.tone) (hcur : (f t.line).curleg = t.line.curleg) : Still s (t.updLine f) :=
    ht.trans (updLine_still hf htone hcur fun _ => .of_busy (y := .offered) (hf.trans (ht.st.trans hst)) (by decide) (by decide))
  unfold callDigits
  split
  · exact .refl s
  · split
    · exact hbusy (.refl s) rfl rfl rfl
    · have hasked := (asked_talk (lrWord (lineId s) (realH s) (.dial n)) s).aside
      exact lrCase_cases (P := Still s) (hbusy hasked.still rfl rfl rfl)
        (hasked.trans ((raise_talk _ _).aside.trans (pendReal_aside _ _))).still

theorem callDialAccepted_shift (hi : isCallWord i = true) (hno : isOffhook i = false) (n tag : Byte) (hst : s.line.st = .idle)
    (hm : s.mwi.st.isActive = false) : Shift i s (callDialAccepted n tag s) := by
  rw [callDialAccepted_eq]
  exact (dialled_shift hi hno n tag hst hm).after (callDigits_still n rfl)

theorem hostCallBody_shift (hi : isCallWord i = true) (hno : isOffhook i = false) (mode : Bool) (n tag : Byte) (s : State) :
    Shift i s (hostCallBody mode n tag s) := by
  unfold hostCallBody
  split
  · exact (refuseCall_talk _ tag s).shift i
  · next hopen =>
    have hidle : s.line.st = .idle := by simp at hopen; exact hopen.1.1
    have hab := mwiAbortIfActive_aside s
    have hrest := mwiAbortIfActive_rests s
    refine .before hab.still ?_
    generalize mwiAbortIfActive s = u at hab hrest
    have hst : u.line.st = .idle := hab.st.trans hidle
    have hcase (c : LrCmd) (ok : State → State) (hok : ∀ t, t.line.st = .idle → t.mwi.st.isActive = false → Shift i t (ok t)) :
        Shift i u (lrRealCase c ok (refuseCall .lrCtrl tag) u) := by
      have hasked := asked_talk (lrWord (lineId u) (realH u) c) u
      refine lrCase_cases (P := Shift i u) (.before hasked.aside.still (hok _ ?_ ?_)) ((hasked.trans (refuseCall_talk _ tag _)).shift i)
      · rw [hasked.line]; exact hst
      · rw [hasked.mwi]; exact hrest
    cases mode
    case false => exact hcase _ _ fun t => callRingAccepted_shift hi hno tag
    case true => exact hcase _ _ fun t => callDialAccepted_shift hi hno n tag

theorem upAnswer_shift (hm : mayMove .offered .active i = true) (hst : s.line.st = .offered) : Shift i s (upAnswer s) := by
  have hasked := asked_talk (lrWord (lineId s) (realH s) (.setHook .offHook)) s
  refine lrCase_cases (P := Shift i s) ?_ ((hasked.trans (raise_talk _ _)).shift i)
  have hfin := hasked.aside.trans (cidrxFinalize_receives _).aside
  have hst' := hfin.st.trans hst
  refine .before (hfin.still.trans (hookOn_still hst')) (establish_shift ?_ hm)
  exact hst'

/-- The registers after `UP` in a three-way build. -/
theorem upThreeWay_shift (hi : i = .hostUp 0) (hst : s.line.st = .threeWayDialing) : Shift i s (upThreeWay s) := by
  have hpass := ((goTo_acts .active).thenSilent (updLine_silent fun l => { l with curleg := some .r })).thenPass s
  refine Shift.after (callLine_shift (y := .active) (f := fun l => { l.goneTo .active with curleg := some .r }) ?_ rfl rfl ?_
    (.inl rfl) ?_ ?_) hpass.aside.still
  · rw [hst]; decide
  · simp [LineRegs.goneTo, hst]
  · simp [mayMove, hst, hi]
  · simp [toneOnMove, hst]

theorem hostUpBody_shift (leg : BitVec 2) (s : State) : Shift (.hostUp leg) s (hostUpBody leg s) := by
  have hraise (e : ErrCode) : Shift (.hostUp leg) s (raise e s) := (raise_talk e s).shift _
  refine withLeg_cases (P := Shift (.hostUp leg) s) (fun x hleg => ?_) fun _ => hraise _
  split
  · exact hraise _
  · next hx =>
    have hx : x = .r := by simp at hx; exact hx.1
    subst hx
    obtain ⟨hr, -, -⟩ := legOf_eq_some leg
    have hzero := hr hleg
    subst hzero
    have hm : mayMove .offered .active (.hostUp 0) = true := by simp [mayMove]
    unfold upCase
    cases hst : s.line.st
    case offered =>
      show Shift _ s (upOffered s)
      unfold upOffered
      cases s.line.calldir
      case inbound =>
        dsimp only
        split
        · exact establish_shift hst hm
        · exact upAnswer_shift hm hst
      case outDial => exact establish_shift hst hm
      all_goals exact hraise _
    case threeWayDialing => exact upThreeWay_shift rfl hst
    all_goals exact hraise _

end Sys2Proof.Machine

end

/-! PROOFS. A `TICK`, every event word, and the invariants of the calls (O7, O9, O10, O11, O12, O18). -/

section

namespace Sys2Proof.Machine

variable {s t u v : State} {i : Instr} {j k : Nat}

/-! ### `TICK` -/

/-- What a tick begins with, the frame received and the clock, concerns no call. -/
theorem tickStart_still (rxvalid : Bool) (s : State) : Still s (advanceNow (received rxvalid s)) := by
  cases rxvalid
  all_goals
    exact
      { st := rfl, tone := rfl, bank := fun hs => { hs with }, spill := fun hs => hs.of_same rfl rfl rfl rfl
        quiet := fun hs => ⟨hs.quiet⟩, call := fun hs => ⟨hs.two, hs.one⟩, mwi := fun hs => hs.of_same rfl rfl rfl }

/-- The branches of a tick after the clock: the line is still Releasing or as it was; it becomes Idle; its ring times out. -/
theorem tickParts_cases (rxvalid txready : Bool) (s : State) :
    (∃ u, (u = advanceNow s ∨ (s.line.st = .offered ∧ s.line.ringt ≠ 1 ∧ u = ringCounted (advanceNow s))) ∧
      (Aside u (tickParts rxvalid txready s) ∨ Drops u (tickParts rxvalid txready s))) ∨
    (s.line.st = .releasing ∧ reachedAt (advanceNow s).line.now s.line.guardUntil = true ∧
      Aside (guarded (advanceNow s)) (tickParts rxvalid txready s)) ∨
    (s.line.st = .offered ∧ s.line.ringing = true ∧ s.line.ringt = 1 ∧
      Aside (lineDown .ringTimeout none (ringCounted (advanceNow s))) (tickParts rxvalid txready s)) := by
  rw [tickParts_eq]
  obtain ⟨hst, hreach, hguard⟩ | hguard := guardTick_cases (advanceNow s) <;> rw [hguard]
  · have hring : ringTick (guarded (advanceNow s)) = guarded (advanceNow s) := by
      obtain h | ⟨h, -⟩ | ⟨h, -⟩ := ringTick_cases (guarded (advanceNow s))
      · exact h
      all_goals cases h
    rw [hring]
    exact .inr (.inl ⟨hst, hreach, lateParts_aside (.inl rfl) _ _⟩)
  · obtain h | ⟨hst, hne, h⟩ | ⟨hst, hringing, h1, h⟩ := ringTick_cases (advanceNow s) <;> rw [h]
    · exact .inl ⟨_, .inl rfl, lateParts_aside_or_drops _ _ _⟩
    · exact .inl ⟨_, .inr ⟨hst, hne, rfl⟩, lateParts_aside_or_drops _ _ _⟩
    · refine .inr (.inr ⟨hst, hringing, h1, lateParts_aside (.inr ?_) _ _⟩)
      exact (lineDown_aside _ _ _).st

theorem ringCounted_still (hst : s.line.st = .offered) : Still s (ringCounted s) :=
  updLine_still rfl rfl rfl fun _ => .of_busy (y := .offered) hst (by decide) (by decide)

/-- The guard time is over (R362). -/
theorem guarded_shift (hi : isTick i = true) (hst : s.line.st = .releasing) : Shift i s (guarded s) where
  bank hs := { hs with }
  spill hs := hs.of_same rfl rfl rfl rfl
  quiet _ hs := ⟨fun _ => hs.quiet (.inr hst)⟩
  call _ _ hs := ⟨hs.two, fun h => by cases h⟩
  tone hs hne := absurd (hs.none (by rw [hst]; decide) (by rw [hst]; decide)) hne
  mwi _ hs := hs.of_inactive (hs.inactive (by rw [hst]; decide)) rfl id
  moves _ _ _ ht _ := by
    rw [hst]
    have hnone := ht.none (by rw [hst]; decide) (by rw [hst]; decide)
    exact ⟨by simp [mayMove, guarded, hi], hnone.trans (by simp [toneOnMove, guarded, hst])⟩

theorem tickParts_shift (hi : isTick i = true) (hno : isWinkflash i = false ∧ isPolarity i = false) (rxvalid txready : Bool)
    (s : State) : Shift i (advanceNow s) (tickParts rxvalid txready s) := by
  have hhang : mayHangUp i = true := by simp [mayHangUp, hi]
  obtain ⟨u, hu, h⟩ | ⟨hst, -, h⟩ | ⟨hst, -, -, h⟩ := tickParts_cases rxvalid txready s
  · have hstill : Still (advanceNow s) u := by
      obtain rfl | ⟨hst, -, rfl⟩ := hu
      · exact .refl _
      · exact ringCounted_still hst
    refine .before hstill ?_
    obtain h | h := h
    · exact h.still.shift i
    · exact h.shift (mayMove_releasing h.notIdle h.notReleasing hhang fun _ => hno)
  · exact (guarded_shift (s := advanceNow s) hi hst).after h.still
  · exact .before (ringCounted_still (s := advanceNow s) hst)
      ((lineDown_offered_shift (s := ringCounted (advanceNow s)) _ _ hst hhang hno).after h.still)

/-- A tick leaves the calls their owners and resources, or hangs up the line. -/
theorem tickParts_legs (rxvalid txready : Bool) {x : Leg} (hx : (s.bank x).owned = true) :
    (((tickParts rxvalid txready s).bank x).owned = true ∧ ((tickParts rxvalid txready s).bank x).owner = (s.bank x).owner ∧
      ((tickParts rxvalid txready s).bank x).res = (s.bank x).res) ∨
    (s.line.st ≠ .releasing ∧ (tickParts rxvalid txready s).line.st = .releasing) := by
  have hkeeps {w : State} (hw : ∀ x, w.bank x = s.bank x) (h : Aside w (tickParts rxvalid txready s)) :
      ((tickParts rxvalid txready s).bank x).owned = true ∧ ((tickParts rxvalid txready s).bank x).owner = (s.bank x).owner ∧
        ((tickParts rxvalid txready s).bank x).res = (s.bank x).res := by
    rw [h.owned, h.owner, h.res, hw]
    exact ⟨hx, rfl, rfl⟩
  obtain ⟨u, hu, h⟩ | ⟨-, -, h⟩ | ⟨hst, -, -, h⟩ := tickParts_cases rxvalid txready s
  · obtain ⟨hbank, hst⟩ : (∀ x, u.bank x = s.bank x) ∧ u.line.st = s.line.st := by
      obtain rfl | ⟨-, -, rfl⟩ := hu <;> exact ⟨fun _ => rfl, rfl⟩
    obtain h | h := h
    · exact .inl (hkeeps hbank h)
    · exact .inr ⟨hst ▸ h.notReleasing, h.st⟩
  · exact .inl (hkeeps (w := guarded (advanceNow s)) (fun _ => rfl) h)
  · exact .inr ⟨by rw [hst]; decide, h.st.trans (lineDown_aside _ _ _).st⟩

/-! ### Every event word -/

/-- A line event: the entry filters refuse it, or its body runs. -/
theorem lineEntry_shift {a b : Bool} {body : State → State} (h : (b = false → s.line.st ≠ .releasing) → Shift i s (body s)) :
    Shift i s (lineEntry a b body s) := by
  have hraise (e : ErrCode) : Shift i s (raise e s) := (raise_talk e s).shift i
  unfold lineEntry
  split
  · exact hraise _
  · split
    · exact hraise _
    · split
      · exact hraise _
      · next hrel =>
        refine h fun hb hst => hrel ?_
        rw [hb, hst]
        rfl

theorem hostEntry_shift {body : State → State} (h : Shift i s (body s)) : Shift i s (hostEntry body s) :=
  hostEntry_cases (P := Shift i s) (fun _ => h) ((raise_talk _ s).shift i)

theorem cfg_still (f : CfgRegs → CfgRegs) (s : State) : Still s (s.updCfg f) where
  st := rfl
  tone := rfl
  bank hs := { hs with }
  spill hs := hs.of_same rfl rfl rfl rfl
  quiet hs := ⟨hs.quiet⟩
  call hs := ⟨hs.two, hs.one⟩
  mwi hs := hs.of_same rfl rfl rfl

theorem hostCfgwrBody_still (reg : Byte) (value : Half) (s : State) : Still s (hostCfgwrBody reg value s) := by
  have hraise (e : ErrCode) : Still s (raise e s) := (raise_talk e s).aside.still
  unfold hostCfgwrBody
  split
  · exact hraise _
  · split
    · exact hraise _
    · split
      · exact hraise _
      · split
        · exact hraise _
        · split
          · exact hraise _
          · exact cfg_still _ s

theorem hostCfgdoneBody_aside (s : State) : Aside s (hostCfgdoneBody s) := by
  unfold hostCfgdoneBody
  split
  · exact (raise_talk _ s).aside
  · have hasked := (asked_talk (lrWord (lineId s) (handleField 0) .openLine) s).aside
    refine lrCase_cases (P := Aside s) ?_ (hasked.trans (raise_talk _ _).aside)
    exact hasked.trans ((updLine_aside rfl fun _ => id).trans
      ((lrTry_talk _ _ _ _).trans ((lrTry_talk _ _ _ _).trans (lrTry_talk _ _ _ _))).aside)

theorem hostMemwrBody_aside (space : BitVec 3) (addr data : Byte) (s : State) : Aside s (hostMemwrBody space addr data s) := by
  unfold hostMemwrBody
  split
  · split
    · exact (wr_receives _ _ _ s).aside
    · exact (raise_talk _ s).aside
  · exact (raise_talk _ s).aside

theorem hostMemrdBody_talk (space : BitVec 3) (addr : Half) (s : State) : Talk s (hostMemrdBody space addr s) := by
  unfold hostMemrdBody
  split
  · split
    · exact emit_talk _ s
    · exact raise_talk _ s
  · exact raise_talk _ s

theorem noneEvent_talk (s : State) : Talk s (noneEvent s) := by
  unfold noneEvent
  split
  · exact raise_talk _ s
  · exact .refl s

theorem lrfatalBody_shift (s : State) : Shift .timeLrfatal s (lrfatalBody s) := by
  unfold lrfatalBody
  split
  · exact (Still.refl s).shift _
  · by_cases hst : s.line.st = .idle ∨ s.line.st = .releasing
    · exact (fatalLoss_quiet hst).still.shift _
    · push Not at hst
      exact (fatalLoss_drops hst.1 hst.2).shift (mayMove_releasing hst.1 hst.2 rfl fun _ => ⟨rfl, rfl⟩)

theorem tickBody_received (hc : s.line.configured = true) (rxvalid txready : Bool) :
    tickBody rxvalid txready s = tickParts rxvalid txready (received rxvalid s) :=
  Host.Outcome.next.inj (exec_tick hc rxvalid txready)

theorem tickBody_shift (rxvalid txready : Bool) (s : State) :
    Shift (.timeTick rxvalid txready) s (tickBody rxvalid txready s) := by
  cases hc : s.line.configured
  · rw [tickBody_unconfigured hc]
    exact (Still.refl s).shift _
  · rw [tickBody_received hc]
    exact .before (tickStart_still rxvalid s) (tickParts_shift rfl ⟨rfl, rfl⟩ _ _ _)

/-- Every event word but `RESET`. -/
theorem exec_shift (i : Instr) (hr : i ≠ .hostReset) (s : State) : ∃ t, exec i s = .next t ∧ Shift i s t := by
  cases i
  case hostReset => exact absurd rfl hr
  case hwNone | fakeNone => exact ⟨_, rfl, (noneEvent_talk s).shift _⟩
  case hwOnhook | fakeOnhook => exact ⟨_, rfl, lineEntry_shift fun _ => onhookBody_shift rfl ⟨rfl, rfl⟩ s⟩
  case hwOffhook | fakeOffhook => exact ⟨_, rfl, lineEntry_shift fun _ => offhookBody_shift rfl s⟩
  case hwRingoffhook | fakeRingoffhook => exact ⟨_, rfl, lineEntry_shift fun _ => ringoffhookBody_shift rfl rfl s⟩
  case hwWinkflash | fakeWinkflash => exact ⟨_, rfl, lineEntry_shift fun h => winkflash_shift rfl (h rfl)⟩
  case hwRingbegin | fakeRingbegin => exact ⟨_, rfl, lineEntry_shift fun _ => ringbeginBody_shift rfl rfl s⟩
  case hwRingoff | fakeRingoff => exact ⟨_, rfl, lineEntry_shift fun _ => (ringoffBody_aside s).still.shift _⟩
  case hwDialcomplete | fakeDialcomplete => exact ⟨_, rfl, lineEntry_shift fun _ => (dialcompleteBody_still s).shift _⟩
  case hwPolarity | fakePolarity => exact ⟨_, rfl, lineEntry_shift fun _ => polarityBody_shift rfl s⟩
  case hwAlarm | fakeAlarm => exact ⟨_, rfl, lineEntry_shift fun _ => alarmBody_shift rfl ⟨rfl, rfl⟩ s⟩
  case hwNoalarm | fakeNoalarm => exact ⟨_, rfl, lineEntry_shift fun _ => (setAlarm_aside false s).still.shift _⟩
  case hwPulsedigit d | fakePulsedigit d => exact ⟨_, rfl, lineEntry_shift fun _ => (pulsedigitBody_aside d s).still.shift _⟩
  case hwDtmfdigit d | fakeDtmfdigit d => exact ⟨_, rfl, lineEntry_shift fun _ => (dtmfdigitBody_aside d s).still.shift _⟩
  case hostCfgwr reg value => exact ⟨_, rfl, (hostCfgwrBody_still reg value s).shift _⟩
  case hostCfgdone => exact ⟨_, rfl, (hostCfgdoneBody_aside s).still.shift _⟩
  case hostMemwr space addr data => exact ⟨_, rfl, (hostMemwrBody_aside space addr data s).still.shift _⟩
  case hostRdreg reg => exact ⟨_, rfl, (emit_talk _ s).shift _⟩
  case hostMemrd space addr => exact ⟨_, rfl, (hostMemrdBody_talk space addr s).shift _⟩
  case hostAlloc leg => exact ⟨_, rfl, hostEntry_shift (hostAllocBody_shift leg s)⟩
  case hostRelease leg => exact ⟨_, rfl, hostEntry_shift ((hostReleaseBody_still leg s).shift _)⟩
  case hostSwap a b => exact ⟨_, rfl, hostEntry_shift (hostSwapBody_shift a b s)⟩
  case hostReconcile => exact ⟨_, rfl, hostEntry_shift ((reconcilePass_passes s).aside.still.shift _)⟩
  case hostSlaveadd line law => exact ⟨_, rfl, hostEntry_shift ((hostSlaveaddBody_still line law s).shift _)⟩
  case hostSlavedel line => exact ⟨_, rfl, hostEntry_shift ((hostSlavedelBody_still line s).shift _)⟩
  case hostMasterset line valid native confno =>
    exact ⟨_, rfl, hostEntry_shift ((hostMastersetBody_still line valid native confno s).shift _)⟩
  case hostMasterclr => exact ⟨_, rfl, hostEntry_shift ((topology_still rfl).shift _)⟩
  case hostInconf b => exact ⟨_, rfl, hostEntry_shift ((topology_still rfl).shift _)⟩
  case hostCall mode n tag => exact ⟨_, rfl, hostEntry_shift (hostCallBody_shift rfl rfl mode n tag s)⟩
  case hostUp leg => exact ⟨_, rfl, hostEntry_shift (hostUpBody_shift leg s)⟩
  case hostHangup leg => exact ⟨_, rfl, hostEntry_shift (hostHangupBody_shift leg s)⟩
  case hostCwoffer tag => exact ⟨_, rfl, hostEntry_shift (hostCwofferBody_shift tag s)⟩
  case hostPoll leg => exact ⟨_, rfl, hostEntry_shift ((hostPollBody_still leg s).shift _)⟩
  case hostSetlinear leg b => exact ⟨_, rfl, hostEntry_shift ((hostSetlinearBody_still leg b s).shift _)⟩
  case hostMwinotify b => exact ⟨_, rfl, hostEntry_shift ((hostMwinotifyBody_aside b s).still.shift _)⟩
  case hostIndicate cond => exact ⟨_, rfl, hostEntry_shift (hostIndicateBody_shift cond s)⟩
  case timeTick rxvalid txready => exact ⟨_, rfl, tickBody_shift rxvalid txready s⟩
  case timeLrfatal => exact ⟨_, rfl, lrfatalBody_shift s⟩

/-! ### Every step -/

theorem popped_still (s : State) : Still s (popped s) where
  st := rfl
  tone := rfl
  bank hs := { hs with }
  spill hs := hs.of_same rfl rfl rfl rfl
  quiet hs := ⟨hs.quiet⟩
  call hs := ⟨hs.two, hs.one⟩
  mwi hs := hs.of_same rfl rfl rfl

/-- A step is at most one shift, or `RESET`. -/
theorem step_shift {w : Word} {rest : List Word} (hq : s.env.events = w :: rest) (h : step s = .next t) :
    (∃ i, decode w = .ok i ∧ i ≠ .hostReset ∧ Shift i s t) ∨ (decode w = .ok .hostReset ∧ t = hostResetBody (popped s)) ∨
      Still s t := by
  obtain ⟨i, hdec, hexec, -⟩ | ⟨-, rfl⟩ := step_cases hq h
  · by_cases hr : i = .hostReset
    · subst hr
      exact .inr (.inl ⟨hdec, (Host.Outcome.next.inj hexec).symm⟩)
    · obtain ⟨u, hu, hshift⟩ := exec_shift i hr (popped s)
      obtain rfl := Host.Outcome.next.inj (hu.symm.trans hexec)
      exact .inl ⟨i, hdec, hr, .before (popped_still s) hshift⟩
  · exact .inr (.inr ((popped_still s).trans (raise_talk _ _).aside.still))

/-- What holds of a state before a step gives of the one after it: after `RESET`, after a shift, and where there is no word. -/
theorem step_gives_of_shift {P Q : State → Prop} (hreset : ∀ s : State, P s → Q (hostResetBody (popped s)))
    (hshift : ∀ i s t, Shift i s t → P s → Q t) (hs : P s) (h : step s = .next t) : Q t := by
  cases hq : s.env.events with
  | nil =>
    rw [step_of_no_events hq] at h
    exact Host.Outcome.next.inj h ▸ hshift .hwNone s s ((Still.refl s).shift _) hs
  | cons w rest =>
    obtain ⟨i, -, -, hsh⟩ | ⟨-, rfl⟩ | hst := step_shift hq h
    · exact hshift i s t hsh hs
    · exact hreset s hs
    · exact hshift .hwNone s t (hst.shift _) hs

theorem hostResetBody_quietInv (s : State) : QuietInv (hostResetBody s) := ⟨(resetOf_quietInv s.par).quiet⟩

end Sys2Proof.Machine

namespace Sys2Proof

open Sys2Proof.Machine

/-- Settles O7: every shift keeps the bank invariants; the conference registers are kept by each micro-operation. -/
theorem bankInvKept : Obligations.BankInvKept :=
  ⟨fun _ _ => step_gives_of_shift (P := BankInv) (Q := BankInv) (fun s _ => by exact { resetOf_bankInv s.par with })
      fun _ _ _ h => h.bank,
    fun _ _ => confInv_kept⟩

/-- Settles O9: every shift keeps the invariants of the spill. -/
theorem spillInvKept : Obligations.SpillInvKept := fun _ _ =>
  step_gives_of_shift (P := SpillInv) (Q := SpillInv) (fun _ hs => (resetOf_spillInv hs.par).of_same rfl rfl rfl rfl)
    fun _ _ _ h => h.spill

/-- Settles O10: every shift from a state with the bank invariants leaves no call on a quiet line. -/
theorem quietInvKept : Obligations.QuietInvKept := by
  intro s t hb hq h
  refine ⟨?_, fun hc => ?_⟩
  · exact step_gives_of_shift (P := fun s => BankInv s ∧ QuietInv s) (Q := QuietInv)
      (fun s _ => hostResetBody_quietInv _) (fun _ _ _ h hs => h.quiet hs.1 hs.2) ⟨hb, hq⟩ h
  · exact step_gives_of_shift (P := fun s => BankInv s ∧ QuietInv s ∧ CallInv s) (Q := CallInv)
      (fun s _ => ⟨(resetOf_callInv s.par).two, (resetOf_callInv s.par).one⟩)
      (fun _ _ _ h hs => h.call hs.1 hs.2.1 hs.2.2) ⟨hb, hq, hc⟩ h

/-- Settles O11: every shift keeps the tone to the calls being set up, and moves `ST` by the table alone. -/
theorem toneInvKept : Obligations.ToneInvKept := by
  refine ⟨fun s t hs h => ?_, fun s t w rest hb hq hc ht hev h hne => ?_⟩
  · exact step_gives_of_shift (P := ToneInv) (Q := ToneInv) (fun s _ => resetOf_toneInv s.par) (fun _ _ _ h => h.tone) hs h
  · obtain ⟨i, hdec, -, hsh⟩ | ⟨hdec, rfl⟩ | hst := step_shift hev h
    · obtain ⟨hmove, htone⟩ := hsh.moves hb hq hc ht hne
      exact ⟨i, hdec, hmove, htone⟩
    · have hidle : (hostResetBody (popped s)).line.st = .idle := rfl
      refine ⟨_, hdec, ?_, ?_⟩ <;> rw [hidle] at hne ⊢
      · cases hst : s.line.st <;> simp_all [mayMove]
      · show Tone.none = _
        cases hst : s.line.st <;> simp [toneOnMove, hst]
    · exact absurd hst.st hne

/-- Settles O12: every shift from a state in which a quiet line carries no call keeps the MWI engine to an Idle line. -/
theorem mwiInvKept : Obligations.MwiInvKept := fun _ _ hq hs h =>
  step_gives_of_shift (P := fun s => QuietInv s ∧ MwiInv s) (Q := MwiInv)
    (fun s _ => (resetOf_mwiInv s.par).of_same rfl rfl rfl) (fun _ _ _ h hs => h.mwi hs.1 hs.2) ⟨hq, hs⟩ h

/-- Settles O18: the clock is written by the first part of a tick alone; a tick leaves the calls or hangs up the line. -/
theorem clockMoves : Obligations.ClockMoves := by
  intro s t w rest hev h
  obtain ⟨i, hdec, hexec, hcase⟩ | ⟨⟨e, hdec⟩, rfl⟩ := step_cases hev h <;> rw [hdec]
  · by_cases htick : isTick i = true
    · cases i
      case timeTick rxvalid txready =>
        obtain rfl : tickBody rxvalid txready (popped s) = t := Host.Outcome.next.inj hexec
        dsimp only
        cases hc : s.line.configured
        · rw [tickBody_unconfigured (s := popped s) hc]
          exact ⟨rfl, fun x hx => .inl ⟨hx, rfl, rfl⟩⟩
        · refine ⟨tickBody_now (s := popped s) hc _ _, fun x hx => ?_⟩
          rw [tickBody_received (s := popped s) hc]
          have hbank : ∀ x, (received rxvalid (popped s)).bank x = s.bank x := by cases rxvalid <;> exact fun _ => rfl
          have hst : (received rxvalid (popped s)).line.st = s.line.st := by cases rxvalid <;> rfl
          have hlegs := tickParts_legs rxvalid txready (s := received rxvalid (popped s)) (x := x) (by rw [hbank]; exact hx)
          rw [hbank, hst] at hlegs
          exact hlegs
      all_goals cases htick
    · have htick : isTick i = false := by simpa using htick
      by_cases hr : i = .hostReset
      · subst hr
        obtain rfl : hostResetBody (popped s) = t := Host.Outcome.next.inj hexec
        rfl
      · have hnow : t.line.now = s.line.now := hcase.now htick hr
        cases i
        case timeTick => cases htick
        case hostReset => exact absurd rfl hr
        all_goals exact hnow
  · exact (raise_talk .badEvent (popped s)).line ▸ rfl

end Sys2Proof

end

/-! PROOFS. The loss of the Line Resource (O58), and the MWI engine's yielding (O56). -/

section

namespace Sys2Proof.Machine

variable {s t u v : State} {i : Instr} {j k : Nat}

/-! ### Words said before and after -/

theorem newWords_trans (h : s.env.out <+: t.env.out) (h' : t.env.out <+: u.env.out) :
    newWords s u = newWords s t ++ newWords t u := by
  obtain ⟨vs, hvs⟩ := h
  obtain ⟨ws, hws⟩ := h'
  rw [newWords_eq hvs.symm, newWords_eq hws.symm]
  exact newWords_eq (by rw [← hws, ← hvs, List.append_assoc])

theorem newWords_take {ws : List ActionWord} (h : t.env.out = s.env.out ++ ws) (h' : t.env.out <+: u.env.out) :
    (newWords s u).take ws.length = ws := by
  obtain ⟨vs, hvs⟩ := newWords_append h h'
  rw [hvs, List.take_left]

/-- A line is hung up also from before what was said. -/
theorem HungUp.after_talk {cause : Cause} {skip : Option Leg} (h : Talk s u) (hd : HungUp cause skip u t)
    (hout : u.env.out <+: t.env.out) : HungUp cause skip s t where
  par := hd.par.trans h.par
  line := by rw [hd.line, h.line, h.cfg]
  real := by rw [hd.real, h.banks]
  cw := by rw [hd.cw, h.banks]
  tw := by rw [hd.tw, h.banks]
  conf := by rw [hd.conf, h.conf]
  tx := hd.tx
  rx := hd.rx
  mwi := hd.mwi.trans h.mwi
  cfg := hd.cfg.trans h.cfg
  bytes sp a ha := (hd.bytes sp a ha).trans (by rw [rd, rd, h.mem])
  inputs := ⟨hd.inputs.events.trans h.events, hd.inputs.frames.trans h.frames⟩
  told x hx hskip := by
    rw [newWords_trans h.out hout, ← h.lineId, ← h.bank]
    exact List.mem_append_right _ (hd.told x (by rw [h.bank]; exact hx) hskip)
  commanded := by
    rw [newWords_trans h.out hout, ← h.lineId, ← h.banks]
    exact List.mem_append_right _ hd.commanded

/-- The housekeeping counter is not seen by a hangup. -/
theorem HungUp.housekept {cause : Cause} {skip : Option Leg} (h : HungUp cause skip s t) :
    HungUp cause skip (s.updLine (LineRegs.housekept s.par)) (t.updLine (LineRegs.housekept t.par)) := by
  have hline : (t.updLine (LineRegs.housekept t.par)).line = LineRegs.housekept s.par t.line := by
    rw [State.updLine_line, h.par]
  refine { h with line := ?_, bytes := h.bytes, inputs := ⟨h.inputs.events, h.inputs.frames⟩ }
  rw [hline, h.line]
  rfl

theorem lineDown_out (cause : Cause) (skip : Option Leg) (s : State) : s.env.out <+: (lineDown cause skip s).env.out :=
  (lineDown_passes cause skip s).out

/-! ### The loss of the Line Resource (R372, R416) -/

theorem exec_lrfatal (h : s.line.configured = true) : exec .timeLrfatal s = .next (fatalLoss s) := by
  refine congrArg Host.Outcome.next ?_
  rw [lrfatalBody, h]
  rfl

theorem fatalLoss_call (hm : s.mwi.st.isActive = false) (hidle : s.line.st ≠ .idle) (hrel : s.line.st ≠ .releasing) :
    fatalLoss s = lineDown .fatal none (raise .fatal s) := by
  have habort : mwiAbortIfActive (raise .fatal s) = raise .fatal s := mwiAbortIfActive_inactive hm
  have hst : (raise .fatal s).line.st = s.line.st := rfl
  rw [fatalLoss, habort]
  exact if_neg (by simp [hst, hidle, hrel])

/-- The loss of the resource on a line without a call, after the abort. -/
def lossMove (s : State) : State := clearPrering (cidrxReset (spillDiscard s))

theorem fatalLoss_noCall (hst : s.line.st = .idle ∨ s.line.st = .releasing) :
    fatalLoss s = reconcilePass (lossMove (mwiAbortIfActive (raise .fatal s))) := by
  have hst' := ((raise_talk .fatal s).aside.trans (mwiAbortIfActive_aside _)).st
  refine if_pos ?_
  obtain h | h := hst <;> simp [hst', h]

/-- The registers after it. -/
def lossDropped (s : State) : State :=
  { discarded s with line := { s.line with prering := false, postwin := 0 }, rx := CidRxRegs.reset }

theorem lossMove_acts : Acts 1 lossDropped lossMove :=
  ((spillDiscard_acts.thenSilent (updRx_silent fun _ => CidRxRegs.reset)).thenSilent
    (updLine_silent fun l => { l with prering := false })).of_eq fun _ => rfl

/-! ### A frame that is refused in a tick (R257) -/

theorem spillTx_refused (hcount : frameCount s ≠ 0) (hr : Refusing s) :
    spillTx s = fatalLoss (spoke (frameWord (BitVec.ofNat 16 (frameCount s)) s) s) := by
  rw [spillTx, if_neg hcount, lrRealCase_of_refusing hr]
  rfl

theorem spillTx_accepted (hcount : frameCount s ≠ 0) (ha : AcceptingNext s) :
    spillTx s = completeIfSent ((spoke (frameWord (BitVec.ofNat 16 (frameCount s)) s) s).updTx
      fun x => { x with rd := x.rd + BitVec.ofNat 16 (frameCount s) }) := by
  rw [spillTx, if_neg hcount, lrRealCase_of_acceptingNext ha]
  rfl

theorem spoke_talk (w : ActionWord) (s : State) : Talk s (spoke w s) :=
  ⟨rfl, rfl, rfl, rfl, rfl, rfl, rfl, rfl, rfl, rfl, rfl, rfl, List.prefix_append _ _, List.tail_suffix _⟩

theorem spoke_out (w : ActionWord) (s : State) : (spoke w s).env.out = s.env.out ++ [w] := rfl

theorem spillTick_ready (h : s.tx.go = true) : spillTick true s = spillTx s := onlyIf_true (by simp [h])

/-- After a hangup the receiver, the MWI engine and housekeeping have nothing to do. -/
theorem lastParts_hungUp {cause : Cause} {skip : Option Leg} (h : HungUp cause skip s t) (hm : s.mwi.st = .null) :
    housekeepingTick (mwiTick (cidrxTick false t)) = t.updLine (LineRegs.housekept t.par) := by
  have hst : t.line.st = .releasing := congrArg LineRegs.st h.line
  have hcalm : CalmRx t :=
    ⟨by rw [h.rx]; rfl, by rw [h.rx]; rfl, .inl (by simp [resultDue, hst])⟩
  have hnull : t.mwi.st = .null := by rw [h.mwi, hm]
  have hwaits : MwiWaits t := .inl ⟨hnull, .inr (.inl (by rw [hst]; decide))⟩
  rw [cidrxTick_calm hcalm, mwiTick_waits hwaits, housekeepingTick_quiet fun _ => mwiMayStart_of_waits hwaits]

end Sys2Proof.Machine

namespace Sys2Proof

open Sys2Proof.Machine

/-- Settles O58: the branches of `FATAL_LOSS`, from `LRFATAL` and from the frame of a tick that is refused. -/
theorem lrfatalWord : Obligations.LrfatalWord := by
  intro s hc hm
  refine ⟨fun hidle hrel => ?call, fun hcount hidle hnull hgo hrd hpos href => ?tick, fun hst => ?quiet⟩
  case call =>
    have htalk := raise_talk .fatal s
    have hout := lineDown_out .fatal none (raise .fatal s)
    refine ⟨_, (exec_lrfatal hc).trans (congrArg _ (fatalLoss_call hm hidle hrel)), (lineDown_hungUp _ _ _).after_talk htalk hout,
      fun ha => ?_, newWords_head? (raise_out .fatal s) hout⟩
    exact lineDown_noError .fatal none (s := raise .fatal s) ⟨ha.enough, ha.ok⟩
  case tick =>
    obtain ⟨c, hcdef⟩ : ∃ c : State, c = { s with line := s.line.counted s.par } := ⟨_, rfl⟩
    obtain ⟨w, hw⟩ : ∃ w, w = spoke (frameWord (BitVec.ofNat 16 (frameCount c)) c) c := ⟨_, rfl⟩
    have hne : frameCount c ≠ 0 := by
      have hlt := BitVec.lt_def.mp hrd
      rw [hcdef, frameCount]
      dsimp only
      omega
    have hspill : spillTick true c = lineDown .fatal none (raise .fatal w) := by
      rw [spillTick_ready (by rw [hcdef]; exact hgo), spillTx_refused hne (by rw [hcdef]; exact href), ← hw]
      refine fatalLoss_call ?_ ?_ ?_ <;> rw [hw, hcdef]
      · exact hm
      · exact hidle
      · exact hcount.notReleasing
    have htalk : Talk c (raise .fatal w) := (hw ▸ spoke_talk _ c).trans (raise_talk _ w)
    have hout := lineDown_out .fatal none (raise .fatal w)
    have hdown := (lineDown_hungUp .fatal none (raise .fatal w)).after_talk htalk hout
    generalize lineDown .fatal none (raise .fatal w) = d at hspill hout hdown
    refine ⟨d.updLine (LineRegs.housekept d.par), (exec_tick hc false true).trans (congrArg _ ?_), ?_, ?_⟩
    · rw [received, if_neg Bool.false_ne_true, tickParts_counting hcount, ← hcdef, hspill]
      exact lastParts_hungUp hdown (by rw [hcdef]; exact hnull)
    · have h := hdown.housekept
      rw [hcdef] at h
      exact h
    · have hwords : (raise .fatal w).env.out = s.env.out ++
          [frameWord (BitVec.ofNat 16 (min s.par.codec.frameSamples (s.tx.len.toNat - s.tx.rd.toNat))) s,
            indWord (lineId s) 0xF (.error .fatal)] := by
        rw [raise_out, hw, spoke_out, hcdef]
        simp only [List.append_assoc]
        rfl
      exact newWords_take (u := d) hwords hout
  case quiet =>
    have htalk := raise_talk .fatal s
    have habort : mwiAbortIfActive (raise .fatal s) = raise .fatal s := mwiAbortIfActive_inactive hm
    have hexec := exec_lrfatal hc
    rw [fatalLoss_noCall hst, habort] at hexec
    have hpass := lossMove_acts.thenPass (raise .fatal s)
    generalize reconcilePass (lossMove (raise .fatal s)) = t at hexec hpass
    obtain ⟨u, hu⟩ : ∃ u, u = lossDropped (raise .fatal s) := ⟨_, rfl⟩
    rw [← hu] at hpass
    refine ⟨t, hexec, ?_, ?_, ?_, ?_, ⟨?_, ?_⟩, ?_, ?_, ?_, ?_, ?_, ?_, fun ha => ?_⟩
    · rw [hpass.line, hu]; rfl
    · exact (hpass.banks .r).logical.trans (by rw [hu]; rfl)
    · exact (hpass.banks .cw).logical.trans (by rw [hu]; rfl)
    · exact (hpass.banks .tw).logical.trans (by rw [hu]; rfl)
    · rw [hpass.tx, hu]; rfl
    · rw [hpass.conf, hu]; rfl
    · rw [hpass.rx, hu]; rfl
    · rw [hpass.mwi, hu]; rfl
    · rw [hpass.cfg, hu]; rfl
    · exact .of_mem (hpass.mem.trans (by rw [hu]; rfl))
    · exact ⟨hpass.events.trans (by rw [hu]; rfl), hpass.frames.trans (by rw [hu]; rfl)⟩
    · exact newWords_head? ((congrArg (fun u => u.env.out) hu).trans (raise_out .fatal s)) hpass.out
    · have hacc : Accepts (56 + 8) u := by
        rw [hu]
        exact ⟨ha.enough, ha.ok⟩
      exact (hpass.smooth 56 hacc).1.trans (by rw [hu]; rfl)

end Sys2Proof

end

/-! PROOFS. The MWI engine yields (O56). -/

section

namespace Sys2Proof.Machine

variable {s t u v : State} {i : Instr} {j k : Nat}

/-- The MWI registers of an engine that has yielded (R350). -/
def MwiRegs.yielded (m : MwiRegs) : MwiRegs := { m with st := .done, pending := if m.st = .cleanup then m.pending else true }

/-- What the abort of an active engine leaves, and what it tells. -/
structure Aborted (s t : State) : Prop where
  mwi : t.mwi = s.mwi.yielded
  told : Told (indWord (lineId s) 0xF (.mwiDone (s.mwi.st == .cleanup))) s t
  gone : s.mwi.st ≠ .cleanup → t.tx = SpillRegs.reset
  aside : Aside s t

/-- The undelivered branch before the host is told. -/
def abortMove (s : State) : State :=
  reconcilePass (spillDiscard (onlyIf (fun s => s.mwi.st == .alertWait) (lrReal (.setHook .ringOff)) s))

theorem abortMove_passes (s : State) : Passes 9 (discarded s) (abortMove s) := by
  have h : Acts (1 + 1) (fun s => discarded (onlyIf (fun s => s.mwi.st == .alertWait) id s))
      fun s => spillDiscard (onlyIf (fun s => s.mwi.st == .alertWait) (lrReal (.setHook .ringOff)) s) :=
    (Acts.onlyIf (fun _ _ _ _ _ => rfl) (lrReal_acts _)).then spillDiscard_acts
  have h := h.of_eq (q := discarded) fun s => by simp [onlyIf]
  exact h.thenPass s

theorem mwiAbort_aborted (hst : s.mwi.st ≠ .cleanup) : Aborted s (mwiAbort s) := by
  have hpass := abortMove_passes s
  have heq : mwiAbort s = mwiGiveUp (abortMove s) := rfl
  have haside := mwiAbort_aside s
  rw [heq] at haside ⊢
  generalize abortMove s = u at hpass haside
  have hmwi : u.mwi = s.mwi := hpass.mwi
  have htx : u.tx = SpillRegs.reset := hpass.tx
  have hout : s.env.out <+: u.env.out := hpass.out
  have hid : lineId u = lineId s := congrArg cfgLineId hpass.cfg
  refine ⟨?_, ?_, fun _ => htx, haside⟩
  · have h : (mwiGiveUp u).mwi = { u.mwi with st := .done, pending := true } := rfl
    rw [h, hmwi, MwiRegs.yielded, if_neg hst]
  · have htold : Told (indWord (lineId u) hAny (.mwiDone false)) u (mwiGiveUp u) := ⟨[_], rfl, List.mem_singleton.mpr rfl⟩
    rw [hid] at htold
    have hno : (s.mwi.st == .cleanup) = false := by simpa using hst
    rw [hno]
    exact htold.after hout

theorem mwiAbortIfActive_aborted (ha : s.mwi.st.isActive = true) : Aborted s (mwiAbortIfActive s) := by
  have haside := mwiAbortIfActive_aside s
  by_cases hst : s.mwi.st = .cleanup
  · have heq : mwiAbortIfActive s = indicate (.mwiDone true) (setMwi .done s) := by rw [mwiAbortIfActive, hst]
    rw [heq] at haside ⊢
    refine ⟨?_, ?_, fun h => absurd hst h, haside⟩
    · have h : (indicate (.mwiDone true) (setMwi .done s)).mwi = { s.mwi with st := .done } := rfl
      rw [h, MwiRegs.yielded, if_pos hst]
    · rw [hst]
      exact ⟨[_], rfl, List.mem_singleton.mpr rfl⟩
  · have heq : mwiAbortIfActive s = mwiAbort s := by
      rw [mwiAbortIfActive]
      cases h : s.mwi.st <;> simp_all [MwiState.isActive]
    rw [heq]
    exact mwiAbort_aborted hst

/-! ### What follows the abort -/

/-- What a word does after the abort: the MWI engine is left alone. -/
structure Leaves (s t : State) : Prop where
  mwi : t.mwi = s.mwi
  out : s.env.out <+: t.env.out

theorem Leaves.trans (h : Leaves s t) (h' : Leaves t u) : Leaves s u := ⟨h'.mwi.trans h.mwi, h.out.trans h'.out⟩

theorem Talk.leaves (h : Talk s t) : Leaves s t := ⟨h.mwi, h.out⟩

theorem Passes.leaves (h : Passes k s t) : Leaves s t := ⟨h.mwi, h.out⟩

theorem ringBurst_leaves (hst : s.line.st = .idle) (hm : s.mwi.st.isActive = false) :
    Leaves s (ringBurst s) ∧ (ringBurst s).tx = s.tx := by
  have hbody : ringBurst s = ringBurstFirst s := if_pos (by simp [hst])
  have heq : ringBurstFirst s =
      (cidrxOnRing true (indicateLeg .r .spawnSetup (ringOpen s))).updRx fun r => { r with lastringT := s.line.now } := by
    rw [ringBurstFirst, mwiAbortIfActive_inactive hm, ringOpen]
  have hopen := ringOpen_talk s
  have hrec := cidrxOnRing_receives true (indicateLeg .r .spawnSetup (ringOpen s))
  have hind := emit_talk (indWord (lineId (ringOpen s)) (legField4 .r) .spawnSetup) (ringOpen s)
  refine ⟨⟨?_, ?_⟩, ?_⟩
  · rw [hbody, heq]
    exact hrec.mwi.trans (hind.mwi.trans hopen.mwi)
  · rw [hbody]
    exact (ringBurstFirst_run s).kept.out
  · rw [hbody, heq]
    exact hrec.tx.trans (hind.tx.trans hopen.tx)

/-- The station seizes the line, but for `SPAWNSETUP`. -/
def seizeMove (s : State) : State :=
  s |> setHookReg true
    |> cidrxReset
    |> clearPrering
    |> goTo .offered
    |> State.updLine (fun l => { l with calldir := .inbound, ringing := false, ringt := 0 })
    |> State.updBank .r (Bank.own 0)
    |> curlegReal
    |> startTone .dialtone

theorem seizeMove_run (s : State) : Run false s (seizeMove s) :=
  (setHookReg_run true s).trans <| (cidrxReset_run _).trans <| (clearPrering_run _).trans <| (goTo_run _ _).trans <|
    (updLine_run rfl rfl).trans <| (ownReal_run 0 _).trans <| (curlegReal_run _).trans (startTone_run _ _)

theorem seize_told (s : State) : Told (indWord (lineId s) 0 .spawnSetup) s (seize s) := by
  have heq : seize s = indicateLeg .r .spawnSetup (seizeMove s) := rfl
  have hkept := (seizeMove_run s).kept
  have htold := indicateLeg_told .r .spawnSetup (seizeMove s)
  rw [lineId, hkept.cfg] at htold
  rw [heq]
  exact htold.after hkept.out

theorem seize_leaves (s : State) : Leaves s (seize s) :=
  ⟨(seize_acts.spoken s).toTalk.mwi, (seize_run (r := false) s).kept.out⟩

/-- What the alarm and the loss of the resource do on an Idle line leaves the engine alone. -/
theorem quietAlarm_leaves (s : State) :
    Leaves s (onlyIf (fun s => s.line.prering || s.rx.st != .off) (fun s => s |> cidrxReset |> clearPrering) s) ∧
    (onlyIf (fun s => s.line.prering || s.rx.st != .off) (fun s => s |> cidrxReset |> clearPrering) s).tx = s.tx :=
  onlyIf_cases (P := fun t => Leaves s t ∧ t.tx = s.tx) (fun _ => ⟨⟨rfl, List.prefix_refl _⟩, rfl⟩)
    fun _ => ⟨⟨rfl, List.prefix_refl _⟩, rfl⟩

theorem quietLoss_leaves (s : State) :
    Leaves s (reconcilePass (lossMove s)) ∧ (reconcilePass (lossMove s)).tx = SpillRegs.reset := by
  have hpass := lossMove_acts.thenPass s
  exact ⟨⟨hpass.mwi, hpass.out⟩, hpass.tx⟩

theorem callDigits_leaves (n : Byte) (s : State) : Leaves s (callDigits n s) := by
  refine ⟨?_, (callDigits_run n s).kept.out⟩
  unfold callDigits
  split
  · rfl
  · split
    · rfl
    · exact lrCase_cases (P := fun t => t.mwi = s.mwi) (asked_talk _ s).mwi (asked_talk _ s).mwi

theorem callAccepted_leaves (mode : Bool) (n tag : Byte) (s : State) :
    Leaves s (if mode then lrRealCase (.setHook .offHook) (callDialAccepted n tag) (refuseCall .lrCtrl tag) s
      else lrRealCase (.setHook .ring) (callRingAccepted tag) (refuseCall .lrCtrl tag) s) := by
  have hcase (c : LrCmd) (ok : State → State) (hok : ∀ t, Leaves t (ok t)) :
      Leaves s (lrRealCase c ok (refuseCall .lrCtrl tag) s) :=
    lrCase_cases (P := Leaves s) ((asked_talk _ s).leaves.trans (hok _)) ((asked_talk _ s).trans (refuseCall_talk _ tag _)).leaves
  cases mode
  case false =>
    refine hcase _ _ fun t => ⟨?_, (callRingAccepted_run (r := false) tag t).kept.out⟩
    have hgen : (onlyIf (fun s => hasFeature s.cfg .cidTx) (cidGenerate .cid) (callClear t)).mwi = t.mwi :=
      onlyIf_cases (P := fun u => u.mwi = t.mwi) (fun _ => ((cidGenerate_acts .cid).spoken (callClear t)).toTalk.mwi) fun _ => rfl
    exact hgen
  case true =>
    refine hcase _ _ fun t => ?_
    rw [callDialAccepted_eq]
    exact Leaves.trans (t := dialled n tag t) ⟨rfl, List.prefix_refl _⟩ (callDigits_leaves n _)

theorem hostCallBody_idle {mode : Bool} {n : Byte} (hst : s.line.st = .idle) (hal : s.line.inalarm = false)
    (hn : mode = true → n.toNat ≤ s.par.dialMax) (tag : Byte) :
    hostCallBody mode n tag s =
      if mode then lrRealCase (.setHook .offHook) (callDialAccepted n tag) (refuseCall .lrCtrl tag) (mwiAbortIfActive s)
      else lrRealCase (.setHook .ring) (callRingAccepted tag) (refuseCall .lrCtrl tag) (mwiAbortIfActive s) := by
  have hfits : (mode && decide (s.par.dialMax < n.toNat)) = false := by
    cases mode
    · rfl
    · simpa using hn rfl
  rw [hostCallBody, if_neg (by simp [hst, hal]; simpa using hfits)]
  cases mode <;> rfl

/-- The engine yields in the word's own step. -/
structure Yielded (s t : State) : Prop where
  mwi : t.mwi = s.mwi.yielded
  told : indWord (lineId s) 0xF (.mwiDone (s.mwi.st == .cleanup)) ∈ newWords s t

theorem Aborted.thenLeaves (h : Aborted s t) (h' : Leaves t u) : Yielded s u :=
  ⟨h'.mwi.trans h.mwi, (h.told.before h'.out).newWords⟩

end Sys2Proof.Machine

namespace Sys2Proof

open Sys2Proof.Machine

/-- Settles O56: each of the words aborts the engine first, and leaves it alone after. -/
theorem mwiYields : Obligations.MwiYields := by
  intro s i hs hst ha hi
  have hab := mwiAbortIfActive_aborted ha
  have hrest := mwiAbortIfActive_rests s
  have hidle := hab.aside.st.trans hst
  have hrests {t : State} (hexec : exec i s = .next t) (h : Yielded s t)
      (htx : s.mwi.st ≠ .cleanup → (∀ mode n tag, i ≠ .hostCall mode n tag) → t.tx = SpillRegs.reset) (hno : isOffhook i = false) :
      ∃ t, exec i s = .next t ∧ t.mwi = s.mwi.yielded ∧ indWord (lineId s) 0xF (.mwiDone (s.mwi.st == .cleanup)) ∈ newWords s t ∧
        (s.mwi.st ≠ .cleanup → (∀ mode n tag, i ≠ .hostCall mode n tag) → t.tx = SpillRegs.reset) ∧
        (i = .hwOffhook ∨ i = .fakeOffhook →
          t.line.st = .offered ∧ t.line.hook = true ∧ t.line.calldir = .inbound ∧ t.line.tone = .dialtone ∧
          t.banks.real.owned = true ∧ indWord (lineId s) 0 .spawnSetup ∈ newWords s t) :=
    ⟨t, hexec, h.mwi, h.told, htx, fun hoff => by obtain rfl | rfl := hoff <;> cases hno⟩
  have hi : (i = .hwOffhook ∨ i = .fakeOffhook) ∨ (i = .hwRingoffhook ∨ i = .fakeRingoffhook) ∨
      (i = .hwRingbegin ∨ i = .fakeRingbegin) ∨ (i = .hwAlarm ∨ i = .fakeAlarm) ∨ i = .timeLrfatal ∨
      ∃ mode n tag, i = .hostCall mode n tag ∧ (mode = true → n.toNat ≤ s.par.dialMax) := by simpa only [or_assoc] using hi
  obtain hi | hi | hi | hi | hi | ⟨mode, n, tag, hi, hn⟩ := hi
  · have hexec : exec i s = .next (seize (mwiAbortIfActive s)) := (exec_offhook hi hs).trans (congrArg _ (offhookCase_idle hidle))
    have htalk := (seize_acts.spoken (mwiAbortIfActive s)).toTalk
    have hyield := hab.thenLeaves (seize_leaves _)
    have hid : lineId (mwiAbortIfActive s) = lineId s := congrArg cfgLineId (mwiAbortIfActive_run s).kept.cfg
    refine ⟨_, hexec, hyield.mwi, hyield.told, fun hst _ => htalk.tx.trans (hab.gone hst), fun _ => ⟨?_, ?_, ?_, ?_, ?_, ?_⟩⟩
    · rw [htalk.line]; rfl
    · rw [htalk.line]; rfl
    · rw [htalk.line]; rfl
    · rw [htalk.line]; rfl
    · rw [htalk.banks]; rfl
    · rw [← hid]
      exact ((seize_told _).after (mwiAbortIfActive_run s).kept.out).newWords
  · have hexec : exec i s = .next (ringBurst (mwiAbortIfActive s)) :=
      (exec_ringoffhook hi hs).trans (congrArg _ (if_pos (takesBurst_of_idle hidle)))
    obtain ⟨hleaves, htx⟩ := ringBurst_leaves hidle hrest
    exact hrests hexec (hab.thenLeaves hleaves) (fun hst _ => htx.trans (hab.gone hst)) (by obtain rfl | rfl := hi <;> rfl)
  · have hburst : ringBurst s = ringBurst (mwiAbortIfActive s) := by
      have habort : mwiAbortIfActive (mwiAbortIfActive s) = mwiAbortIfActive s := mwiAbortIfActive_inactive hrest
      rw [ringBurst, ifElse, if_pos (by simp [hst]), ringBurst, ifElse, if_pos (by simp [hidle]), ringBurstFirst, ringBurstFirst, habort,
        (mwiAbortIfActive_run s).kept.par, (mwiAbortIfActive_run s).kept.cfg, (mwiAbortIfActive_run s).kept.now]
    have hexec : exec i s = .next (ringBurst (mwiAbortIfActive s)) :=
      (exec_ringbegin hi hs).trans (congrArg _ ((if_pos (takesBurst_of_idle hst)).trans hburst))
    obtain ⟨hleaves, htx⟩ := ringBurst_leaves hidle hrest
    exact hrests hexec (hab.thenLeaves hleaves) (fun hst _ => htx.trans (hab.gone hst)) (by obtain rfl | rfl := hi <;> rfl)
  · have haba := mwiAbortIfActive_aborted (s := setAlarm true s) ha
    have hidle : (mwiAbortIfActive (setAlarm true s)).line.st = .idle := haba.aside.st.trans hst
    have hexec := exec_alarm hi hs.configured
    rw [alarmBody] at hexec
    generalize mwiAbortIfActive (setAlarm true s) = u at haba hidle hexec
    have hquiet : ifElse (fun s => s.line.st != .idle && s.line.st != .releasing) (lineDown .alarm none)
        (onlyIf (fun s => s.line.prering || s.rx.st != .off) fun s => s |> cidrxReset |> clearPrering) u =
        onlyIf (fun s => s.line.prering || s.rx.st != .off) (fun s => s |> cidrxReset |> clearPrering) u :=
      if_neg (by simp [hidle])
    rw [hquiet] at hexec
    obtain ⟨hleaves, htx⟩ := quietAlarm_leaves u
    have hyield := haba.thenLeaves hleaves
    exact hrests hexec ⟨hyield.mwi, hyield.told⟩ (fun hst _ => htx.trans (haba.gone hst)) (by obtain rfl | rfl := hi <;> rfl)
  · subst hi
    have habr := mwiAbortIfActive_aborted (s := raise .fatal s) ha
    have hexec := exec_lrfatal hs.configured
    rw [fatalLoss_noCall (.inl hst)] at hexec
    obtain ⟨hleaves, htx⟩ := quietLoss_leaves (mwiAbortIfActive (raise .fatal s))
    have hyield := habr.thenLeaves hleaves
    have hout : (raise .fatal s).env.out <+: (reconcilePass (lossMove (mwiAbortIfActive (raise .fatal s)))).env.out :=
      (mwiAbortIfActive_run (raise .fatal s)).kept.out.trans hleaves.out
    refine hrests hexec ⟨hyield.mwi, ?_⟩ (fun _ _ => htx) rfl
    rw [newWords_trans (raise_talk .fatal s).out hout]
    exact List.mem_append_right _ hyield.told
  · have hexec : exec i s = .next (hostCallBody mode n tag s) := by
      rw [hi]
      exact exec_hostCall_of_configured hs.configured mode n tag
    rw [hostCallBody_idle hst hs.noAlarm hn] at hexec
    exact hrests hexec (hab.thenLeaves (callAccepted_leaves mode n tag _)) (fun _ h => absurd hi (h mode n tag)) (by rw [hi]; rfl)

end Sys2Proof

end

/-! PROOFS. A spill in a `TICK`: a frame, the last frame, and the call-waiting alert repeated. -/

section

namespace Sys2Proof.Machine

variable {s t u v : State} {i : Instr} {j k : Nat}

/-- The state after the first five parts of a counting tick. -/
def counting (s : State) : State := { s with line := s.line.counted s.par }

theorem exec_tick_counting (h : CountingLine s) (txready : Bool) :
    exec (.timeTick false txready) s = .next (housekeepingTick (mwiTick (cidrxTick false (spillTick txready (counting s))))) := by
  rw [exec_tick h.configured, received, if_neg Bool.false_ne_true, tickParts_counting h, counting]

/-! ### One frame (R257) -/

theorem frameCount_eq (h : s.tx.rd.toNat + s.par.codec.frameSamples < s.tx.len.toNat) : frameCount s = s.par.codec.frameSamples := by
  rw [frameCount]
  omega

theorem frameCount_ne_zero (hpos : 0 < s.par.codec.frameSamples) (hrd : s.tx.rd < s.tx.len) : frameCount s ≠ 0 := by
  rw [BitVec.lt_def] at hrd
  rw [frameCount]
  omega

/-- The state after a frame that is not the last. -/
theorem spillTick_frame (hgo : s.tx.go = true) (hpos : 0 < s.par.codec.frameSamples)
    (hrd : s.tx.rd.toNat + s.par.codec.frameSamples < s.tx.len.toNat) (ha : AcceptingNext s) :
    spillTick true s = (spoke (frameWord (BitVec.ofNat 16 s.par.codec.frameSamples) s) s).updTx
      fun x => { x with rd := x.rd + BitVec.ofNat 16 s.par.codec.frameSamples } := by
  have hlt : s.tx.rd < s.tx.len := by
    rw [BitVec.lt_def]
    omega
  have hcount := frameCount_eq hrd
  have hsum := frameSent_rd s hlt
  rw [spillTick_ready hgo, spillTx_accepted (frameCount_ne_zero hpos hlt) ha, hcount]
  refine onlyIf_false ?_
  have hne : (frameSent s).tx.rd ≠ s.tx.len := fun h => by
    rw [h] at hsum
    omega
  rw [frameSent, hcount] at hne
  exact beq_eq_false_iff_ne.mpr hne

theorem exec_tick_frame (h : CountingLine s) (hgo : s.tx.go = true) (hrx : CalmRx s) (hm : MwiWaits s)
    (hpos : 0 < s.par.codec.frameSamples) (hrd : s.tx.rd.toNat + s.par.codec.frameSamples < s.tx.len.toNat) (ha : AcceptingNext s) :
    exec (.timeTick false true) s =
      .next { spoke (frameWord (BitVec.ofNat 16 s.par.codec.frameSamples) s) s with
        line := s.line.ticked s.par, tx := { s.tx with rd := s.tx.rd + BitVec.ofNat 16 s.par.codec.frameSamples } } := by
  have hspill := spillTick_frame (s := counting s) hgo hpos hrd ha
  rw [exec_tick_counting h, hspill]
  generalize hu : (spoke (frameWord (BitVec.ofNat 16 (counting s).par.codec.frameSamples) (counting s)) (counting s)).updTx
    (fun x => { x with rd := x.rd + BitVec.ofNat 16 (counting s).par.codec.frameSamples }) = u
  have hcalm : CalmRx u := by rw [← hu]; exact ⟨hrx.off, hrx.noTimeout, hrx.noneDue⟩
  have hwaits : MwiWaits u := by rw [← hu]; exact hm
  rw [cidrxTick_calm hcalm, mwiTick_waits hwaits, housekeepingTick_quiet fun _ => mwiMayStart_of_waits hwaits, ← hu]
  rfl

/-! ### The last frame (R258) -/

theorem completed_silent : Silent completed := fun _ _ _ _ _ => rfl

/-- `SPILL_COMPLETE` with all commands accepted restores the membership. -/
theorem spillComplete_reconciled (hsusp : s.conf.confSusp = true) (ha : Accepts 8 s) : Reconciled (spillComplete s) := by
  rw [spillComplete_eq, if_pos hsusp]
  have hacts := completeMove_acts.thenSilent (updConf_silent fun c => { c with confSusp := false, saveconf := descNone })
  exact reconciled_of_accepts ((hacts.spoken s).smooth 7 ha).2

/-- What the last frame of a spill leaves. -/
structure LastFrame (s t : State) : Prop where
  passes : Passes 9 (completed s) t
  first : s.env.out ++ [frameWord (s.tx.len - s.tx.rd) s] <+: t.env.out
  reconciled : Accepting s → s.conf.confSusp = true → Reconciled t

theorem spillTick_last (hgo : s.tx.go = true) (hrd : s.tx.rd < s.tx.len)
    (hlast : s.tx.len.toNat ≤ s.tx.rd.toNat + s.par.codec.frameSamples) (ha : AcceptingNext s) :
    ∃ u, u = (spoke (frameWord (s.tx.len - s.tx.rd) s) s).updTx (fun x => { x with rd := x.len }) ∧
      spillTick true s = spillComplete u := by
  have hlt := BitVec.lt_def.mp hrd
  have hlen := s.tx.len.isLt
  have hcount : frameCount s = s.tx.len.toNat - s.tx.rd.toNat := by
    rw [frameCount]
    omega
  have hn : BitVec.ofNat 16 (frameCount s) = s.tx.len - s.tx.rd := by
    apply BitVec.eq_of_toNat_eq
    rw [hcount, BitVec.toNat_ofNat, BitVec.toNat_sub]
    omega
  have hsum : s.tx.rd + (s.tx.len - s.tx.rd) = s.tx.len := by
    apply BitVec.eq_of_toNat_eq
    rw [BitVec.toNat_add, BitVec.toNat_sub]
    omega
  refine ⟨_, rfl, ?_⟩
  rw [spillTick_ready hgo, spillTx_accepted (by rw [hcount]; omega) ha, hn]
  have hrd' : ((spoke (frameWord (s.tx.len - s.tx.rd) s) s).updTx fun x => { x with rd := x.rd + (s.tx.len - s.tx.rd) }) =
      (spoke (frameWord (s.tx.len - s.tx.rd) s) s).updTx fun x => { x with rd := x.len } := by
    simp only [State.updTx, spoke, State.updEnv, hsum]
  rw [hrd']
  exact onlyIf_true (by simp)

theorem spillTick_lastFrame (hgo : s.tx.go = true) (hrd : s.tx.rd < s.tx.len)
    (hlast : s.tx.len.toNat ≤ s.tx.rd.toNat + s.par.codec.frameSamples) (ha : AcceptingNext s) :
    LastFrame s (spillTick true s) := by
  obtain ⟨u, hu, hspill⟩ := spillTick_last hgo hrd hlast ha
  have hacts : Acts 0 completed completed := completed_silent.acts
  have hspoke : Says 1 s (spoke (frameWord (s.tx.len - s.tx.rd) s) s) := by
    rw [← asked_eq_spoke ha]
    exact asked_says _ s
  have hsays : Says 1 (completed s) (completed u) := by
    have h := completed_silent.map hspoke
    rw [hu]
    exact h
  have hpass := spillComplete_passes u
  rw [hspill]
  refine ⟨hsays.passes.trans hpass, ?_, fun hacc hsusp => ?_⟩
  · have hout : u.env.out = s.env.out ++ [frameWord (s.tx.len - s.tx.rd) s] := by rw [hu]; rfl
    have hc : (completed u).env.out = u.env.out := rfl
    rw [← hout, ← hc]
    exact hpass.out
  · refine spillComplete_reconciled (by rw [hu]; exact hsusp) ?_
    have h := (hspoke.smooth 8 (hacc.accepts.mono (by decide))).2
    rw [hu]
    exact h

theorem Reconciled.of_same (h : Reconciled s) (hbanks : t.banks = s.banks) (hconf : t.conf = s.conf) (htx : t.tx = s.tx)
    (hcfg : t.cfg = s.cfg) : Reconciled t := by
  obtain ⟨hlegs, hslaves⟩ := h
  cases s
  cases t
  simp only at hbanks hconf htx hcfg
  subst hbanks hconf htx hcfg
  exact ⟨hlegs, hslaves⟩

/-- A spill is sent: what the parts of the tick after the transmitter leave of it. -/
theorem LastFrame.spillSent (h : LastFrame (counting s) u) (f : MwiRegs → MwiRegs) :
    SpillSent s ((u.updMwi f).updLine (LineRegs.housekept s.par)) := by
  obtain ⟨hpass, hfirst, hrec⟩ := h
  have hline : (u.updLine (LineRegs.housekept s.par)).line = LineRegs.housekept s.par (completed (counting s)).line :=
    congrArg (LineRegs.housekept s.par) hpass.line
  have hwin : windowOf s.par s.tx.kind s.cfg =
      ticksOf s.par (if s.tx.kind = .cwcid then cfgCidcwExpireMs s.cfg else cfgCidSuppressMs s.cfg) := by
    cases hk : s.tx.kind <;> rfl
  exact
    { par := hpass.par
      line := by
        refine hline.trans ?_
        rw [← hwin]
        rfl
      real := (hpass.banks .r).logical
      cw := (hpass.banks .cw).logical
      tw := (hpass.banks .tw).logical
      conf := hpass.conf
      tx := hpass.tx
      rx := hpass.rx
      cfg := hpass.cfg
      bytes := .of_mem hpass.mem
      inputs := ⟨hpass.events, hpass.frames⟩
      first := newWords_head? (t := said [frameWord (s.tx.len - s.tx.rd) s] s) rfl hfirst
      accepted := fun hacc => ⟨(hpass.smooth 55 hacc.accepts).1, fun hsusp =>
        (hrec ⟨hacc.enough, hacc.ok⟩ hsusp).of_same rfl rfl rfl rfl⟩ }

/-- After the last frame the receiver does nothing. -/
theorem LastFrame.cidrxTick (h : LastFrame s u) (hrx : CalmRx s) : cidrxTick false u = u := by
  refine cidrxTick_calm ⟨?_, ?_, ?_⟩
  · rw [h.passes.rx]; exact hrx.off
  · rw [h.passes.rx]; exact hrx.noTimeout
  · rw [resultDue, h.passes.rx, h.passes.line]
    exact hrx.noneDue

theorem exec_tick_last (h : CountingLine s) (hgo : s.tx.go = true) (hrx : CalmRx s) (hrd : s.tx.rd < s.tx.len)
    (hlast : s.tx.len.toNat ≤ s.tx.rd.toNat + s.par.codec.frameSamples) (ha : AcceptingNext s) :
    ∃ u, LastFrame (counting s) u ∧ exec (.timeTick false true) s = .next (housekeepingTick (mwiTick u)) := by
  have hframe := spillTick_lastFrame (s := counting s) hgo hrd hlast ha
  refine ⟨_, hframe, ?_⟩
  rw [exec_tick_counting h, hframe.cidrxTick ⟨hrx.off, hrx.noTimeout, hrx.noneDue⟩]

/-- The engine at rest, or on a line that is not Idle, does nothing in this tick. -/
theorem exec_tick_spillSent (h : CountingLine s) (hgo : s.tx.go = true) (hrx : CalmRx s) (hrd : s.tx.rd < s.tx.len)
    (hlast : s.tx.len.toNat ≤ s.tx.rd.toNat + s.par.codec.frameSamples) (ha : AcceptingNext s)
    (hm : s.mwi.st = .null ∧ (s.mwi.pending = false ∨ s.line.st ≠ .idle)) :
    ∃ t, exec (.timeTick false true) s = .next t ∧ SpillSent s t ∧ t.mwi = s.mwi := by
  obtain ⟨u, hframe, hexec⟩ := exec_tick_last h hgo hrx hrd hlast ha
  have hmwi : u.mwi = s.mwi := hframe.passes.mwi
  have hst : u.line.st = s.line.st := (congrArg LineRegs.st hframe.passes.line :)
  have hwaits : MwiWaits u := by
    refine .inl ⟨by rw [hmwi]; exact hm.1, ?_⟩
    rw [hmwi, hst]
    exact hm.2.elim .inl fun h => .inr (.inl h)
  rw [mwiTick_waits hwaits, housekeepingTick_quiet fun _ => mwiMayStart_of_waits hwaits] at hexec
  have hpar : u.par = s.par := hframe.passes.par
  rw [hpar] at hexec
  exact ⟨_, hexec, hframe.spillSent id, hmwi⟩

/-- The engine that sent the spill goes to Cleanup in the tick of the last frame (R346). -/
theorem exec_tick_mwiSent (h : CountingLine s) (hgo : s.tx.go = true) (hrx : CalmRx s) (hrd : s.tx.rd < s.tx.len)
    (hlast : s.tx.len.toNat ≤ s.tx.rd.toNat + s.par.codec.frameSamples) (ha : AcceptingNext s) (hm : s.mwi.st = .sendSpill) :
    ∃ t, exec (.timeTick false true) s = .next t ∧ SpillSent s t ∧ t.mwi = { s.mwi with st := .cleanup } := by
  obtain ⟨u, hframe, hexec⟩ := exec_tick_last h hgo hrx hrd hlast ha
  have hmwi : u.mwi = s.mwi := hframe.passes.mwi
  have hkind : u.tx.kind = .none := by rw [hframe.passes.tx]; rfl
  have htick : mwiTick u = u.updMwi fun m => { m with st := .cleanup } := by
    have hst : u.mwi.st = .sendSpill := by rw [hmwi]; exact hm
    rw [mwiTick, hst]
    exact onlyIf_true (by simp [hkind])
  have hno : mwiMayStart (u.updMwi fun m => { m with st := .cleanup }) = false := by simp [mwiMayStart, mwiQuiet]
  have hpar : u.par = s.par := hframe.passes.par
  rw [htick, housekeepingTick_quiet fun _ => hno, State.updMwi_par, hpar] at hexec
  exact ⟨_, hexec, hframe.spillSent _, by rw [State.updLine_mwi, State.updMwi_mwi, hmwi]⟩

/-! ### The call-waiting alert repeated (R365, R255) -/

theorem cwrepeatTick_due (hst : s.line.st = .active) (hoff : s.line.hook = true) (hcw : s.line.cwrepeat = 1)
    (hown : s.banks.cw.owned = true) : cwrepeatTick s = cwAlert (s.updLine fun l => { l with cwrepeat := 0 }) := by
  have hdown : (s.updLine fun l => { l with cwrepeat := countDown l.cwrepeat }) = s.updLine fun l => { l with cwrepeat := 0 } := by
    simp only [State.updLine, hcw]
    rfl
  rw [cwrepeatTick, onlyIf_true (by rw [hcw]; rfl), hdown]
  exact onlyIf_true (by simp [hst, hoff, hown])

end Sys2Proof.Machine

end

/-! PROOFS. A `TICK` with a ring that times out, a guard time, a frame received, and an alert to repeat (O57). -/

section

namespace Sys2Proof.Machine

variable {s t u v : State} {i : Instr} {j k : Nat} {r : Bool}

/-! ### The alert repeated (R365, R255) -/

/-- The state in which the repeat timer finds its call-waiting alert due. -/
def alertDue (s : State) : State :=
  s.updLine fun l =>
    { l with now := l.now + BitVec.ofNat 32 s.par.tickMs, postwin := if l.postwin = 0 then 0 else l.postwin - 1, cwrepeat := 0 }

theorem lineParts_alert (hst : s.line.st = .active) (hoff : s.line.hook = true) (hcw : s.line.cwrepeat = 1)
    (hown : s.banks.cw.owned = true) :
    cwrepeatTick (postwinTick (ringTick (guardTick (advanceNow s)))) = cwAlert (alertDue s) := by
  have hguard : guardTick (advanceNow s) = advanceNow s :=
    guardTick_of_notReleasing (by
      have h : (advanceNow s).line.st = s.line.st := rfl
      rw [h, hst]
      decide)
  have hring : ringTick (advanceNow s) = advanceNow s := onlyIf_false (by
    have h : (advanceNow s).line.st = s.line.st := rfl
    simp [h, hst])
  rw [hguard, hring, postwinTick_eq, cwrepeatTick_due]
  · rfl
  · exact hst
  · exact hoff
  · exact hcw
  · exact hown

/-- The registers after the repeated alert. -/
def alertRepeated (s : State) : State :=
  (begun (generated .cwcid (alertDue s))).updLine fun l => { l with cwrepeat := ticksOf s.par (cfgCwRepeatMs s.cfg) }

theorem cwAlert_passes (s : State) : Passes 9 (alertRepeated s) (cwAlert (alertDue s)) :=
  (acts_of_says (k := 0) Says.refl).thenCwAlert (alertDue s)

/-- On an established call the receiver and the engine at rest leave the alert alone. -/
theorem lastParts_calm (hrx : t.rx.st = .off) (hto : t.rx.timeout = 0) (hst : t.line.st ≠ .offered) (hm : CalmMwi t) :
    housekeepingTick (mwiTick (cidrxTick false t)) = t.updLine (LineRegs.housekept t.par) := by
  have hcalm : CalmRx t := ⟨hrx, hto, .inl (by simp [resultDue, hst])⟩
  rw [cidrxTick_calm hcalm, mwiTick_waits hm.waits, housekeepingTick_quiet fun _ => mwiMayStart_of_waits hm.waits]

theorem exec_tick_alert (hc : s.line.configured = true) (hst : s.line.st = .active) (hoff : s.line.hook = true)
    (hcw : s.line.cwrepeat = 1) (hown : s.banks.cw.owned = true) (hrx : s.rx.st = .off) (hto : s.rx.timeout = 0) (hm : CalmMwi s) :
    ∃ u, Passes 9 (alertRepeated s) u ∧ exec (.timeTick false false) s = .next (u.updLine (LineRegs.housekept s.par)) := by
  have hpass := cwAlert_passes s
  refine ⟨_, hpass, (exec_tick hc false false).trans (congrArg _ ?_)⟩
  have hparts : tickParts false false s =
      housekeepingTick (mwiTick (cidrxTick false (spillTick false (cwAlert (alertDue s))))) := by
    rw [tickParts, lineParts_alert hst hoff hcw hown]
  rw [received, if_neg Bool.false_ne_true, hparts, spillTick_idle (.inr rfl)]
  generalize cwAlert (alertDue s) = u at hpass
  have hpar : u.par = s.par := hpass.par
  have hline : u.line.st = s.line.st := (congrArg LineRegs.st hpass.line :)
  have hrxu : u.rx = s.rx := hpass.rx
  have hmwi : u.mwi = s.mwi := hpass.mwi
  rw [lastParts_calm (by rw [hrxu]; exact hrx) (by rw [hrxu]; exact hto) (by rw [hline, hst]; decide)
    ⟨by rw [hmwi]; exact hm.null, by rw [hmwi]; exact hm.noneWaiting⟩, hpar]

/-! ### The ring timeout (R363) -/

theorem ringTick_timeout (hst : s.line.st = .offered) (hringing : s.line.ringing = true) (h1 : s.line.ringt = 1) :
    ringTick s = lineDown .ringTimeout none (ringCounted s) := by
  rw [ringTick, onlyIf_true (by simp [hst, hringing, h1])]
  exact onlyIf_true (by simp [h1]; rfl)

theorem lateParts_run (rxvalid txready : Bool) (s : State) : Run false s (lateParts rxvalid txready s) :=
  (postwinTick_run s).trans <| (cwrepeatTick_run _).trans <| (spillTick_run txready _).trans <| (cidrxTick_run rxvalid _).trans <|
    (mwiTick_run _).trans (housekeepingTick_run _)

/-- The state when the line is hung up by the ring timeout. -/
def ringOut (rxvalid : Bool) (s : State) : State := ringCounted (advanceNow (received rxvalid s))

theorem tickParts_ringOut (hst : s.line.st = .offered) (hringing : s.line.ringing = true) (h1 : s.line.ringt = 1)
    (rxvalid txready : Bool) :
    tickParts rxvalid txready (received rxvalid s) = lateParts rxvalid txready (lineDown .ringTimeout none (ringOut rxvalid s)) := by
  have hline : (advanceNow (received rxvalid s)).line = { s.line with now := s.line.now + BitVec.ofNat 32 s.par.tickMs } := by
    cases rxvalid <;> rfl
  rw [tickParts_eq, guardTick_of_notReleasing (by rw [hline, hst]; decide), ringTick_timeout (by rw [hline]; exact hst)
    (by rw [hline]; exact hringing) (by rw [hline]; exact h1), ringOut]

/-! ### A frame received (R73) -/

/-- `RXBUF` reads as before. -/
structure SameRxbuf (s t : State) : Prop where
  par : t.par = s.par
  bytes : s.par.ok → ∀ a < 65536, rd .rxbuf a t = rd .rxbuf a s

theorem SameRxbuf.of_mem (hpar : t.par = s.par) (hmem : t.mem = s.mem) : SameRxbuf s t :=
  ⟨hpar, fun _ a _ => by rw [rd, rd, hmem]⟩

theorem SameRxbuf.trans (h : SameRxbuf s t) (h' : SameRxbuf t u) : SameRxbuf s u :=
  ⟨h'.par.trans h.par, fun hp a ha => (h'.bytes (h.par ▸ hp) a ha).trans (h.bytes hp a ha)⟩

theorem Micro.sameRxbuf (h : Micro r s t) : SameRxbuf s t := by
  cases h
  case raise e => exact .of_mem (raise_talk e s).par (raise_talk e s).mem
  case tell h i hi => exact .of_mem (emit_talk _ s).par (emit_talk _ s).mem
  case ask line h c hloop => exact .of_mem (asked_talk _ s).par (asked_talk _ s).mem
  case write sp a bs hhost hrx hfits =>
    refine ⟨rfl, fun hp b hb => ?_⟩
    have hsize := Space.size_lt hp sp
    rw [rd_wr sp .rxbuf a b bs s (by have := hfits hp; omega) hb, dif_neg fun h => hrx h.1.symm]
  all_goals exact .of_mem rfl rfl

theorem Run.sameRxbuf (h : Run r s t) : SameRxbuf s t :=
  h.relates (fun _ => .of_mem rfl rfl) (fun _ _ _ => SameRxbuf.trans) fun _ _ => Micro.sameRxbuf

theorem tickParts_received (hp : s.par.ok) (txready : Bool) :
    (tickParts true txready (receiveFrame s)).env.frames = s.env.frames.tail ∧
    ∀ a < s.par.codec.frameSamples, rd .rxbuf a (tickParts true txready (receiveFrame s)) = (nextFrame s).getD a 0 := by
  have hrun := tickParts_run true txready (receiveFrame s)
  refine ⟨hrun.kept.frames, fun a ha => ?_⟩
  have hlt : s.par.codec.frameSamples < 65536 := Space.size_lt hp .rxbuf
  have hsame := hrun.sameRxbuf.bytes hp a (by omega)
  have hread := rd_receiveFrame hp .rxbuf a (by omega)
  rw [if_pos ⟨rfl, ha⟩] at hread
  exact hsame.trans hread

end Sys2Proof.Machine

end

/-! PROOFS. What a `TICK` does to a ring, to the guard time and with a frame received: the clauses of O57 on the line. -/

section

namespace Sys2Proof.Machine

variable {s t u v : State} {i : Instr} {j k : Nat} {r : Bool}

theorem exec_tick_received (hc : s.line.configured = true) (rxvalid txready : Bool) {t : State}
    (h : tickParts rxvalid txready (received rxvalid s) = t) : exec (.timeTick rxvalid txready) s = .next t :=
  (exec_tick hc rxvalid txready).trans (congrArg _ h)

theorem advanceNow_received_line (rxvalid : Bool) (s : State) :
    (advanceNow (received rxvalid s)).line = { s.line with now := s.line.now + BitVec.ofNat 32 s.par.tickMs } := by
  cases rxvalid <;> rfl

/-! ### The ring (R363) -/

/-- What the ring timeout leaves on the line. -/
structure RingEnded (s t : State) : Prop where
  st : t.line.st = .releasing
  hook : t.line.hook = false
  ringing : t.line.ringing = false
  guard : t.line.guardUntil = (s.line.ticked s.par).now + (cfgGuardMs s.cfg).setWidth 32
  free : t.banks.real.owned = false
  told : ∀ x : Leg, (s.bank x).owned = true → Told (indWord (lineId s) (legField4 x) (.hangup (s.bank x).owner .ringTimeout)) s t

theorem Aside.ringEnded (h : Aside t u) (ht : RingEnded s t) (hout : t.env.out <+: u.env.out) : RingEnded s u where
  st := h.st.trans ht.st
  hook := h.hook.trans ht.hook
  ringing := h.ringing.trans ht.ringing
  guard := h.guardUntil.trans ht.guard
  free := (h.owned .r).trans ht.free
  told := fun x hx => (ht.told x hx).before hout

theorem Told.of_out {w : ActionWord} (h : Told w t u) (hout : t.env.out = s.env.out) : Told w s u := by
  obtain ⟨ws, hws, hw⟩ := h
  exact ⟨ws, hws.trans (by rw [hout]), hw⟩

theorem ringOut_ended (rxvalid : Bool) (s : State) : RingEnded s (lineDown .ringTimeout none (ringOut rxvalid s)) := by
  have hdown := lineDown_aside .ringTimeout none (ringOut rxvalid s)
  have hguard : (downed (ringOut rxvalid s)).line.guardUntil = (s.line.ticked s.par).now + (cfgGuardMs s.cfg).setWidth 32 := by
    cases rxvalid <;> rfl
  have hbank : ∀ x, (ringOut rxvalid s).bank x = s.bank x := fun x => by cases rxvalid <;> rfl
  have hline : lineId (ringOut rxvalid s) = lineId s := by cases rxvalid <;> rfl
  have hout : (ringOut rxvalid s).env.out = s.env.out := by cases rxvalid <;> rfl
  have htold : ∀ x, (s.bank x).owned = true → Told (indWord (lineId s) (legField4 x) (.hangup (s.bank x).owner .ringTimeout)) s
      (lineDown .ringTimeout none (ringOut rxvalid s)) := fun x hx => by
    have h := lineDown_told (s := ringOut rxvalid s) (x := x) (cause := .ringTimeout) (skip := none) (by rw [hbank]; exact hx)
      (Option.some_ne_none x).symm
    rw [hbank, hline] at h
    exact h.of_out hout
  have hfree : ∀ u, (downed u).banks.real.owned = false := fun _ => rfl
  have hst : ∀ u, (downed u).line.st = .releasing := fun _ => rfl
  have hhook : ∀ u, (downed u).line.hook = false := fun _ => rfl
  have hringing : ∀ u, (downed u).line.ringing = false := fun _ => rfl
  generalize lineDown .ringTimeout none (ringOut rxvalid s) = t at hdown htold
  generalize ringOut rxvalid s = u at hdown hguard
  exact ⟨hdown.st.trans (hst u), hdown.hook.trans (hhook u), hdown.ringing.trans (hringing u), hdown.guardUntil.trans hguard,
    (hdown.owned .r).trans (hfree u), htold⟩

/-- The ring has lasted its time. -/
theorem exec_tick_ringOut (hc : s.line.configured = true) (hst : s.line.st = .offered) (hringing : s.line.ringing = true)
    (h1 : s.line.ringt = 1) (rxvalid txready : Bool) :
    ∃ t, exec (.timeTick rxvalid txready) s = .next t ∧ RingEnded s t := by
  refine ⟨_, exec_tick_received hc rxvalid txready (tickParts_ringOut hst hringing h1 rxvalid txready), ?_⟩
  have hended := ringOut_ended rxvalid s
  generalize lineDown .ringTimeout none (ringOut rxvalid s) = u at hended
  exact (lateParts_aside (.inr hended.st) rxvalid txready).ringEnded hended (lateParts_run rxvalid txready u).kept.out

/-- The ring goes on. -/
theorem exec_tick_ringing (hc : s.line.configured = true) (hst : s.line.st = .offered) (hringing : s.line.ringing = true)
    (h1 : 1 < s.line.ringt) (hgo : s.tx.go = false) (rxvalid txready : Bool) :
    ∃ t, exec (.timeTick rxvalid txready) s = .next t ∧ t.line.st = .offered ∧ t.line.ringt = s.line.ringt - 1 := by
  have hline := advanceNow_received_line rxvalid s
  have hne0 : s.line.ringt ≠ 0 := by rintro h; rw [h] at h1; exact absurd h1 (by decide)
  have hne1 : s.line.ringt ≠ 1 := by rintro h; rw [h] at h1; exact absurd h1 (by decide)
  have hgo' : (advanceNow (received rxvalid s)).tx.go = false := by cases rxvalid <;> exact hgo
  refine ⟨_, exec_tick_received hc rxvalid txready rfl, ?_⟩
  rw [tickParts_eq, guardTick_of_notReleasing (by rw [hline, hst]; decide),
    ringTick_counts (.inl (by rw [hline]; exact hne1))]
  generalize advanceNow (received rxvalid s) = u at hline hgo'
  generalize hv : (u.updLine fun l =>
    { l with ringt := if l.st = .offered ∧ l.ringing = true ∧ l.ringt ≠ 0 then l.ringt - 1 else l.ringt }) = v
  have hvst : v.line.st = .offered := by rw [← hv, State.updLine_line, hline]; exact hst
  have hvt : v.line.ringt = s.line.ringt - 1 := by
    rw [← hv, State.updLine_line, hline]
    exact if_pos ⟨hst, hringing, hne0⟩
  have hvgo : v.tx.go = false := by rw [← hv]; exact hgo'
  have haside : Aside v (lateParts rxvalid txready v) := by
    have hspill : spillTick txready (cwrepeatTick (postwinTick v)) = cwrepeatTick (postwinTick v) := by
      refine spillTick_idle (.inl ?_)
      rw [cwrepeatTick_counts (.inr (.inr (.inl (by
        have h : (postwinTick v).line.st = v.line.st := rfl
        rw [h, hvst]
        decide))))]
      exact hvgo
    rw [lateParts, hspill]
    exact (postwinTick_aside v).trans ((cwrepeatTick_aside _).trans (lastParts_aside rxvalid _))
  exact ⟨haside.st.trans hvst, haside.ringt.trans hvt⟩

/-! ### The guard time (R361) -/

theorem exec_tick_guard (hc : s.line.configured = true) (hst : s.line.st = .releasing) (rxvalid txready : Bool) :
    ∃ t, exec (.timeTick rxvalid txready) s = .next t ∧
      t.line.st = if reachedAt (s.line.ticked s.par).now s.line.guardUntil = true then .idle else .releasing := by
  have hline := advanceNow_received_line rxvalid s
  refine ⟨_, exec_tick_received hc rxvalid txready rfl, ?_⟩
  rw [tickParts_eq]
  generalize advanceNow (received rxvalid s) = u at hline
  have hust : u.line.st = .releasing := by rw [hline]; exact hst
  have hreached : reachedAt u.line.now u.line.guardUntil = reachedAt (s.line.ticked s.par).now s.line.guardUntil := by
    rw [hline]
    rfl
  have hlate : ∀ v : State, v.line.st = .idle ∨ v.line.st = .releasing →
      (lateParts rxvalid txready (ringTick v)).line.st = v.line.st := by
    intro v hv
    have hring : ringTick v = v := onlyIf_false (by obtain h | h := hv <;> simp [h])
    rw [hring]
    exact (lateParts_aside hv rxvalid txready).st
  by_cases hr : reachedAt (s.line.ticked s.par).now s.line.guardUntil = true
  · have hg : guardTick u = guarded u := onlyIf_true (by simp [hust, hreached, hr])
    rw [hg, if_pos hr]
    exact hlate (guarded u) (.inl rfl)
  · have hg : guardTick u = u := onlyIf_false (by simp [hust, hreached, hr])
    rw [hg, if_neg hr, hlate u (.inr hust), hust]

/-! ### A frame received (R73) -/

theorem exec_tick_rxbuf (hc : s.line.configured = true) (hp : s.par.ok) (txready : Bool) :
    ∃ t, exec (.timeTick true txready) s = .next t ∧ t.env.frames = s.env.frames.tail ∧
      ∀ a < s.par.codec.frameSamples, rd .rxbuf a t = (nextFrame s).getD a 0 := by
  have hexec := exec_tick hc true txready
  rw [received, if_pos rfl] at hexec
  exact ⟨_, hexec, tickParts_received hp txready⟩

/-! ### The alert repeated -/

theorem cidSamples_alertDue (s : State) : cidSamples .cwcid (alertDue s) = cidSamples .cwcid s := cidSamples_congr rfl rfl rfl _

theorem Passes.alertRepeated_tx (h : Passes 9 (alertRepeated s) u) :
    u.tx =
      { kind := .cwcid, len := BitVec.ofNat 16 (cidSamples .cwcid s).length, rd := 0, go := true
        linSaved := linearAfterDiscard s } := by
  have htx : u.tx =
      { kind := .cwcid, len := BitVec.ofNat 16 (cidSamples .cwcid (alertDue s)).length, rd := 0, go := true
        linSaved := linearAfterDiscard s } := h.tx
  rw [htx, cidSamples_alertDue]

theorem Passes.alertRepeated_mem (h : Passes 9 (alertRepeated s) u) : u.mem = (wr .spill 0 (cidSamples .cwcid s) s).mem := by
  have hmem : u.mem = (wr .spill 0 (cidSamples .cwcid (alertDue s)) s).mem := h.mem
  rw [hmem, cidSamples_alertDue]

theorem Passes.alertRepeated_begun (h : Passes 9 (alertRepeated s) u) (hp : s.par.ok) :
    SpillBegun .cwcid (cidSamples .cwcid s) s u := by
  have hlen := length_le_of_le_spillBytes hp (cidSamples_length_le hp .cwcid)
  have htx := h.alertRepeated_tx
  have hmem := h.alertRepeated_mem
  have hreal : u.banks.real.logical = { s.banks.real with linear := false }.logical := (h.banks .r).logical
  have hconf : u.conf.logical = { s.conf with confSusp := true, saveconf := s.banks.real.cur }.logical := h.conf
  generalize cidSamples .cwcid s = samples at htx hmem hlen
  obtain ⟨hbytes, hothers⟩ := loaded_of_mem hlen hmem
  exact ⟨htx, hbytes, hothers, hreal, hconf⟩

theorem Passes.alertRepeated_line (h : Passes 9 (Machine.alertRepeated s) u) (hst : s.line.st = .active) :
    (u.updLine (LineRegs.housekept s.par)).line =
      { s.line.ticked s.par with cwrepeat := ticksOf s.par (cfgCwRepeatMs s.cfg), postwin := 0 } := by
  have hticked : (s.line.ticked s.par).ringt = s.line.ringt := if_neg (by simp [hst])
  rw [State.updLine_line, h.line]
  simp only [LineRegs.ticked] at hticked ⊢
  rw [hticked]
  rfl

theorem exec_tick_alert_begun (hc : s.line.configured = true) (hst : s.line.st = .active) (hoff : s.line.hook = true)
    (hcw : s.line.cwrepeat = 1) (hown : s.banks.cw.owned = true) (hrx : s.rx.st = .off) (hto : s.rx.timeout = 0) (hm : CalmMwi s)
    (hp : s.par.ok) :
    ∃ t, exec (.timeTick false false) s = .next t ∧
      t.line = { s.line.ticked s.par with cwrepeat := ticksOf s.par (cfgCwRepeatMs s.cfg), postwin := 0 } ∧
      SpillBegun .cwcid (cidSamples .cwcid s) s t ∧ t.banks.cw.logical = s.banks.cw.logical ∧
      t.banks.tw.logical = s.banks.tw.logical ∧ t.rx = s.rx ∧ t.mwi = s.mwi ∧ t.cfg = s.cfg ∧ SameInputs s t ∧
      (Accepting s → NoError s t) := by
  obtain ⟨u, h, hexec⟩ := exec_tick_alert hc hst hoff hcw hown hrx hto hm
  have hline := h.alertRepeated_line hst
  obtain ⟨htx, hbytes, hothers, hreal, hconf⟩ := h.alertRepeated_begun hp
  have hno : Accepting s → NoError s u := h.noError rfl rfl (by decide)
  have hcwl : u.banks.cw.logical = s.banks.cw.logical := (h.banks .cw).logical
  have htw : u.banks.tw.logical = s.banks.tw.logical := (h.banks .tw).logical
  have hrxu : u.rx = s.rx := h.rx
  have hmwi : u.mwi = s.mwi := h.mwi
  have hcfg : u.cfg = s.cfg := h.cfg
  have hev : u.env.events = s.env.events := h.events
  have hfr : u.env.frames = s.env.frames := h.frames
  exact ⟨_, hexec, hline, ⟨htx, hbytes, hothers, hreal, hconf⟩, hcwl, htw, hrxu, hmwi, hcfg, ⟨hev, hfr⟩, hno⟩

end Sys2Proof.Machine

end

/-! PROOFS. The Caller-ID receiver in a `TICK` (R272 to R274), on a line where nothing else is due (O57). -/

section

namespace Sys2Proof.Machine

variable {s t u v : State} {i : Instr} {j k : Nat} {r : Bool}

/-! ### The other parts on a calm line -/

theorem CalmLine.received (h : CalmLine s) (rxvalid : Bool) : CalmLine (received rxvalid s) :=
  ⟨h.toCountingLine.received rxvalid, by cases rxvalid <;> exact h.noSpill⟩

/-- The state in which the receiver runs in a tick on a calm line. -/
def atReceiver (rxvalid : Bool) (s : State) : State := counting (received rxvalid s)

/-- With no notification waiting the engine and housekeeping leave what the receiver leaves. -/
theorem lastParts_receiver (hpar : t.par = s.par) (hnull : t.mwi.st = .null) (hnone : t.mwi.pending = false) :
    housekeepingTick (mwiTick t) = t.updLine (LineRegs.housekept s.par) := by
  have hm : CalmMwi t := ⟨hnull, hnone⟩
  rw [mwiTick_waits hm.waits, housekeepingTick_quiet fun _ => mwiMayStart_of_waits hm.waits, hpar]

theorem exec_tick_receiver (h : CalmLine s) (hm : CalmMwi s) (rxvalid txready : Bool) :
    exec (.timeTick rxvalid txready) s =
      .next ((cidrxTick rxvalid (atReceiver rxvalid s)).updLine (LineRegs.housekept s.par)) := by
  have hr := cidrxTick_receives rxvalid (atReceiver rxvalid s)
  have hgo : (atReceiver rxvalid s).tx.go = false := (h.received rxvalid).noSpill
  have hpar : (atReceiver rxvalid s).par = s.par := by cases rxvalid <;> rfl
  have hmwi : (atReceiver rxvalid s).mwi = s.mwi := by cases rxvalid <;> rfl
  rw [exec_tick h.configured, tickParts_counting (h.received rxvalid).toCountingLine]
  have hspill : spillTick txready (atReceiver rxvalid s) = atReceiver rxvalid s := spillTick_idle (.inl hgo)
  rw [atReceiver, counting] at hspill hr hpar hmwi ⊢
  rw [hspill]
  exact congrArg _ (lastParts_receiver (hr.par.trans hpar) (by rw [hr.mwi, hmwi]; exact hm.null)
    (by rw [hr.mwi, hmwi]; exact hm.noneWaiting))

/-! ### The overall timeout (R272) -/

/-- The receive registers after the count of their timeout. -/
def CidRxRegs.countedDown (r : CidRxRegs) : CidRxRegs := { r with timeout := if r.timeout = 0 then 0 else r.timeout - 1 }

/-- `RESET` of the receiver on an Idle line. -/
def abandonedIfIdle (s : State) : State := onlyIf (fun s => s.line.st == .idle) (fun s => clearPrering (cidrxReset s)) s

theorem cidrxExpire_decoding (h : s.rx.st = .decoding) :
    cidrxExpire s = abandonedIfIdle (concludeIfOffered (cidrxFail .cidTimeout s)) := by
  rw [cidrxExpire, onlyIf_true (c := fun s : State => s.rx.st == .decoding) (by simp [h])]
  rfl

theorem cidrxExpire_ended (h : s.rx.st ≠ .decoding) : cidrxExpire s = abandonedIfIdle s := by
  rw [cidrxExpire, onlyIf_false (c := fun s : State => s.rx.st == .decoding) (by simp [h])]
  rfl

theorem abandonedIfIdle_idle (h : s.line.st = .idle) : abandonedIfIdle s = clearPrering (cidrxReset s) := onlyIf_true (by simp [h])

theorem abandonedIfIdle_call (h : s.line.st ≠ .idle) : abandonedIfIdle s = s := onlyIf_false (by simp [h])

theorem cidrxCountdown_counts (h : s.rx.timeout ≠ 1 ∨ (s.rx.st ≠ .decoding ∧ s.line.st ≠ .idle)) :
    cidrxCountdown s = s.updRx CidRxRegs.countedDown := by
  by_cases h0 : s.rx.timeout = 0
  · rw [cidrxCountdown, onlyIf_false (by simp [h0])]
    simp only [State.updRx, CidRxRegs.countedDown, h0, if_true]
    rw [← h0]
  · have hcount : (s.updRx fun r => { r with timeout := countDown r.timeout }) = s.updRx CidRxRegs.countedDown := rfl
    rw [cidrxCountdown, onlyIf_true (by simpa using h0), hcount]
    obtain h1 | ⟨hst, hline⟩ := h
    · refine onlyIf_false (beq_eq_false_iff_ne.mpr fun hz => ?_)
      exact ((countDown_eq_zero s.rx.timeout).mp hz).elim h0 h1
    · have hno : cidrxExpire (s.updRx CidRxRegs.countedDown) = s.updRx CidRxRegs.countedDown :=
        (cidrxExpire_ended (s := s.updRx CidRxRegs.countedDown) hst).trans
          (abandonedIfIdle_call (s := s.updRx CidRxRegs.countedDown) hline)
      rw [onlyIf, hno, ite_self]

/-- The timeout has reached zero. -/
def timedOut (s : State) : State := s.updRx fun r => { r with timeout := 0 }

theorem cidrxCountdown_expires (h : s.rx.timeout = 1) : cidrxCountdown s = cidrxExpire (timedOut s) := by
  have hzero : (s.updRx fun r => { r with timeout := countDown r.timeout }) = timedOut s := by
    simp only [timedOut, State.updRx, h]
    rfl
  rw [cidrxCountdown, onlyIf_true (by rw [h]; rfl), hzero]
  exact onlyIf_true rfl

/-- A decode that ends in a tick (R269, R284): the timeout counts before the result is told. -/
theorem cidrxCheckResult_concluded {st : CidRxState} (hrest : cidrxAtRest st = true) (hd : st ≠ .decoding) (valid : Bool)
    (h : s.rx.timeout ≠ 1 ∨ s.line.st ≠ .idle) :
    cidrxCheckResult (cidrxCountdown (concludeIfOffered (s.updRx fun r => { r with st := st, cidValid := valid }))) =
      said (concludedWords valid s) { s with rx := (concludedRx st valid s).countedDown } := by
  have hcount : cidrxCountdown (concludeIfOffered (s.updRx fun r => { r with st := st, cidValid := valid })) =
      concludeIfOffered ((s.updRx CidRxRegs.countedDown).updRx fun r => { r with st := st, cidValid := valid }) := by
    rw [concludeIfOffered_eq, concludeIfOffered_eq, cidrxCountdown_counts]
    · rfl
    · exact h.imp id fun hidle => ⟨hd, hidle⟩
  rw [hcount, cidrxCheckResult_concludeIfOffered hrest]
  rfl

/-! ### The branches without a frame -/

theorem cidrxTick_counts {rxvalid : Bool} (hcase : cidrxTickCase rxvalid s = s)
    (h : s.rx.timeout ≠ 1 ∨ (s.rx.st ≠ .decoding ∧ s.line.st ≠ .idle)) (hquiet : reports s = false) :
    cidrxTick rxvalid s = s.updRx CidRxRegs.countedDown := by
  rw [cidrxTick, hcase, cidrxCountdown_counts h]
  exact cidrxCheckResult_of_quiet hquiet

theorem reports_of_notDue (h : resultDue s = false ∨ s.rx.dringOn = true) : reports s = false := by
  obtain h | h := h <;> simp [reports, h]

theorem cidrxTickCase_decoding (h : s.rx.st = .decoding) : cidrxTickCase false s = s := by rw [cidrxTickCase, h]; rfl

theorem cidrxTickCase_done (h : s.rx.st = .done) (rxvalid : Bool) : cidrxTickCase rxvalid s = s := by rw [cidrxTickCase, h]

/-- The timeout ends a decode. -/
theorem cidrxTick_timeout (h1 : s.rx.timeout = 1) (hst : s.rx.st = .decoding) (hline : s.line.st ≠ .idle) :
    cidrxTick false s =
      said (concludedWords s.rx.cidValid s)
        { raise .cidTimeout s with rx := { concludedRx .fail s.rx.cidValid s with timeout := 0 } } := by
  have hexpire : cidrxExpire (timedOut s) =
      concludeIfOffered (cidrxFail .cidTimeout (timedOut s)) := by
    rw [cidrxExpire_decoding (s := timedOut s) hst]
    refine abandonedIfIdle_call ?_
    rw [concludeIfOffered_eq]
    exact hline
  rw [cidrxTick, cidrxTickCase_decoding hst, cidrxCountdown_expires h1, hexpire]
  exact cidrxCheckResult_concludeIfOffered (st := .fail) rfl s.rx.cidValid
    (raise .cidTimeout (timedOut s))

theorem reports_of_idle (h : s.line.st = .idle) : reports s = false := by simp [reports, resultDue, h]

/-- On an Idle line the timeout resets the receiver. -/
theorem cidrxTick_abandoned (h1 : s.rx.timeout = 1) (hst : s.rx.st = .decoding) (hline : s.line.st = .idle) :
    cidrxTick false s = clearPrering { raise .cidTimeout s with rx := CidRxRegs.reset } := by
  have hexpire : cidrxExpire (timedOut s) =
      clearPrering { raise .cidTimeout s with rx := CidRxRegs.reset } := by
    rw [cidrxExpire_decoding (s := timedOut s) hst, concludeIfOffered_eq, abandonedIfIdle_idle]
    · rfl
    · exact hline
  rw [cidrxTick, cidrxTickCase_decoding hst, cidrxCountdown_expires h1, hexpire]
  exact cidrxCheckResult_of_quiet (reports_of_idle hline)

theorem cidrxTick_forgotten (h1 : s.rx.timeout = 1) (hst : s.rx.st = .done) (hline : s.line.st = .idle) :
    cidrxTick false s = clearPrering { s with rx := CidRxRegs.reset } := by
  have hexpire : cidrxExpire (timedOut s) = clearPrering { s with rx := CidRxRegs.reset } := by
    rw [cidrxExpire_ended (s := timedOut s) (by simp [timedOut, hst]), abandonedIfIdle_idle]
    · rfl
    · exact hline
  rw [cidrxTick, cidrxTickCase_done hst, cidrxCountdown_expires h1, hexpire]
  exact cidrxCheckResult_of_quiet (reports_of_idle hline)

/-! ### The settle time -/

theorem countDown_byte_eq_zero (v : Byte) : countDown v = 0 ↔ v ≤ 1 := by
  rw [countDown_eq]
  split
  · next h => simp [h]
  · next h => constructor <;> intro _ <;> bv_omega

theorem reports_of_settle (h : s.rx.st = .settle) : reports s = false := by simp [reports, h, cidrxAtRest]

theorem cidrxTick_settles (hst : s.rx.st = .settle) (h0 : s.rx.timeout = 0) (h1 : 1 < s.rx.settle) (rxvalid : Bool) :
    cidrxTick rxvalid s = s.updRx fun r => { r with settle := r.settle - 1 } := by
  have hne : s.rx.settle ≠ 0 := by bv_omega
  have hcase : cidrxTickCase rxvalid s = s.updRx fun r => { r with settle := r.settle - 1 } := by
    have hdown : (s.updRx fun r => { r with settle := countDown r.settle }) = s.updRx fun r => { r with settle := r.settle - 1 } := by
      simp only [State.updRx, countDown_eq, if_neg hne]
    rw [cidrxTickCase, hst]
    simp only [settleTick]
    rw [hdown]
    exact onlyIf_false (beq_eq_false_iff_ne.mpr fun h => by
      simp only [State.updRx_rx] at h
      bv_omega)
  rw [cidrxTick, hcase, cidrxCountdown_counts (.inl (by simp [h0]))]
  have hcount : CidRxRegs.countedDown { s.rx with settle := s.rx.settle - 1 } = { s.rx with settle := s.rx.settle - 1 } := by
    simp only [CidRxRegs.countedDown, h0, if_true]
  have hstate : ((s.updRx fun r => { r with settle := r.settle - 1 }).updRx CidRxRegs.countedDown) =
      s.updRx fun r => { r with settle := r.settle - 1 } := by
    simp only [State.updRx, hcount]
  rw [hstate]
  exact cidrxCheckResult_of_quiet (reports_of_settle hst)

theorem cidrxTick_begins (hst : s.rx.st = .settle) (h1 : s.rx.settle ≤ 1)
    (hto : ticksOf s.par (cfgCidTimeoutMs s.cfg) ≠ 1) (rxvalid : Bool) :
    cidrxTick rxvalid s = (cidrxBegin (s.updRx fun r => { r with settle := 0 })).updRx CidRxRegs.countedDown := by
  have hzero := (countDown_byte_eq_zero s.rx.settle).mpr h1
  have hcase : cidrxTickCase rxvalid s = cidrxBegin (s.updRx fun r => { r with settle := 0 }) := by
    rw [cidrxTickCase, hst]
    simp only [settleTick]
    rw [onlyIf_true (by simpa using hzero)]
    simp only [State.updRx, hzero]
  rw [cidrxTick, hcase, cidrxCountdown_counts (.inl hto)]
  exact cidrxCheckResult_of_quiet (reports_of_decoding rfl)

end Sys2Proof.Machine

end

/-! PROOFS. The Caller-ID receiver in a `TICK` with a frame: the energy watch (R274) and the FSK feed (R273). -/

section

namespace Sys2Proof.Machine

variable {s t u v : State} {i : Instr} {j k : Nat} {r : Bool}

/-! ### The frame -/

theorem rxFrame_atReceiver (hp : s.par.ok) : rxFrame (atReceiver true s) = nextFrame s := by
  have hlt : s.par.codec.frameSamples < 65536 := Space.size_lt hp .rxbuf
  have hlen := nextFrame_length s
  have hread := rdList_wr .rxbuf 0 (nextFrame s)
    (s.updEnv fun e => { e with frames := e.frames.tail, framesDrawn := e.framesDrawn + 1 }) (by omega)
  rw [hlen] at hread
  exact hread

/-! ### The energy watch (R274) -/

/-- The receiver once the energy of a frame has started it. -/
def settling (p : Config.Params) : CidRxRegs :=
  { CidRxRegs.reset with st := .settle, settle := BitVec.ofNat 8 (p.ticks p.dtmfSettleMs) }

/-- What the energy watch waits for, but for the energy. -/
structure WatchOpen (s : State) : Prop where
  feature : hasFeature s.cfg .cidRx = true
  start : cidStartOf s.cfg = .dtmfNoAlert
  idle : s.line.st = .idle
  noWindow : s.line.postwin = 0
  mwiQuiet : mwiQuiet s = true
  noAlarm : s.line.inalarm = false

theorem energyWatch_eq (h : WatchOpen s) :
    energyWatch s =
      s.updRx fun r =>
        if cfgDtmfThresh s.cfg < (Config.waveforms s.par.codec).frameEnergy (cfgLaw s.cfg) (rxFrame s) then settling s.par else r := by
  have hstart : (cidStartOf s.cfg == .dtmfNoAlert) = true := by rw [h.start]; rfl
  have hidle : (s.line.st == .idle) = true := by rw [h.idle]; rfl
  simp only [energyWatch, onlyIf, h.feature, hstart, hidle, h.noWindow, h.mwiQuiet, h.noAlarm, beq_self_eq_true, Bool.not_false,
    Bool.and_true, Bool.true_and, decide_eq_true_eq]
  split <;> rfl

theorem cidrxCountdown_zero (h : s.rx.timeout = 0) : cidrxCountdown s = s := onlyIf_false (by simp [h])

theorem cidrxTick_watch (h : WatchOpen s) (hst : s.rx.st = .off) (h0 : s.rx.timeout = 0) : cidrxTick true s = energyWatch s := by
  have hcase : cidrxTickCase true s = energyWatch s := by rw [cidrxTickCase, hst]; rfl
  have hto : (energyWatch s).rx.timeout = 0 := by
    rw [energyWatch_eq h, State.updRx_rx]
    split
    · rfl
    · exact h0
  have hline : (energyWatch s).line.st = .idle := by rw [energyWatch_eq h]; exact h.idle
  rw [cidrxTick, hcase, cidrxCountdown_zero hto]
  exact cidrxCheckResult_of_quiet (reports_of_idle hline)

/-! ### The FSK feed (R273) -/

/-- The frame has been appended to `RXACC`. -/
def gathered (s : State) : State :=
  (wr .rxacc s.rx.rxlen.toNat (rxFrame s) s).updRx fun r => { r with rxlen := r.rxlen + BitVec.ofNat 16 s.par.codec.frameSamples }

/-- What the detector makes of the samples gathered. -/
def gatheredDecode (s : State) : CidDecode :=
  cidDecode s.par.codec (rxStd s.cfg) (cfgLaw s.cfg) (rdList .rxacc 0 (gathered s).rx.rxlen.toNat (gathered s))

theorem cidrxFeed_overflow (h : s.par.spillBytes < s.rx.rxlen.toNat + s.par.codec.frameSamples) :
    cidrxFeed s = concludeIfOffered (cidrxFail .cidFail s) := if_pos h

theorem cidrxFeed_fits (h : s.rx.rxlen.toNat + s.par.codec.frameSamples ≤ s.par.spillBytes) :
    (gatheredDecode s = .more → cidrxFeed s = gathered s) ∧
    (gatheredDecode s = .error → cidrxFeed s = concludeIfOffered (cidrxFail .cidFail (gathered s))) ∧
    (∀ num name, gatheredDecode s = .done num name → cidrxFeed s = concludeIfOffered (cidrxCommit num name (gathered s))) := by
  rw [cidrxFeed, if_neg (Nat.not_lt.mpr h)]
  refine ⟨fun hd => ?_, fun hd => ?_, fun num name hd => ?_⟩ <;>
  · rw [gatheredDecode, gathered] at hd
    simp only [State.updRx_par, wr_par, State.updRx_cfg, wr_cfg, hd]
    rfl

theorem rdList_succ_append (sp : Space) (a m n : Nat) (s : State) : rdList sp a (m + n) s = rdList sp a m s ++ rdList sp (a + m) n s := by
  simp only [rdList, List.range_add, List.map_append, List.map_map]
  congr 1
  exact List.map_congr_left fun i _ => by simp [Nat.add_assoc]

theorem gathered_samples (hp : s.par.ok) (h : s.rx.rxlen.toNat + s.par.codec.frameSamples ≤ s.par.spillBytes) :
    rdList .rxacc 0 (gathered s).rx.rxlen.toNat (gathered s) = rdList .rxacc 0 s.rx.rxlen.toNat s ++ rxFrame s := by
  have hlt : s.par.spillBytes < 65536 := Space.size_lt hp .rxacc
  have hlen : (rxFrame s).length = s.par.codec.frameSamples := rdList_length _ _ _ _
  have hsum : (s.rx.rxlen + BitVec.ofNat 16 s.par.codec.frameSamples).toNat = s.rx.rxlen.toNat + s.par.codec.frameSamples := by
    rw [BitVec.toNat_add, BitVec.toNat_ofNat]
    omega
  have hstate : ∀ a n, rdList .rxacc a n (gathered s) = rdList .rxacc a n (wr .rxacc s.rx.rxlen.toNat (rxFrame s) s) := fun _ _ => rfl
  rw [gathered, State.updRx_rx, wr_rx]
  rw [hsum, ← gathered, hstate, rdList_succ_append]
  congr 1
  · refine List.map_congr_left fun a ha => ?_
    rw [rd_wr _ _ _ _ _ _ (by omega) (by rw [List.mem_range] at ha; omega), dif_neg]
    rintro ⟨-, hge, -⟩
    rw [List.mem_range] at ha
    omega
  · rw [Nat.zero_add, ← hlen]
    exact rdList_wr _ _ _ _ (by omega)

theorem cidrxTick_feeds (hst : s.rx.st = .decoding) (hfsk : rxDtmf s.cfg = false) :
    cidrxTick true s = cidrxCheckResult (cidrxCountdown (cidrxFeed s)) := by
  have hcase : cidrxTickCase true s = cidrxFeed s := by
    rw [cidrxTickCase, hst]
    exact if_pos (by simp [hfsk])
  rw [cidrxTick, hcase]

/-- The four ends of a tick that feeds the detector. -/
structure Fed (s t : State) : Prop where
  overflow : s.par.spillBytes < s.rx.rxlen.toNat + s.par.codec.frameSamples →
    t = said (concludedWords s.rx.cidValid s) { raise .cidFail s with rx := (concludedRx .fail s.rx.cidValid s).countedDown }
  more : s.rx.rxlen.toNat + s.par.codec.frameSamples ≤ s.par.spillBytes → gatheredDecode s = .more →
    t = (gathered s).updRx CidRxRegs.countedDown
  error : s.rx.rxlen.toNat + s.par.codec.frameSamples ≤ s.par.spillBytes → gatheredDecode s = .error →
    t = said (concludedWords s.rx.cidValid (gathered s))
      { raise .cidFail (gathered s) with rx := (concludedRx .fail s.rx.cidValid (gathered s)).countedDown }
  done : ∀ num name, s.rx.rxlen.toNat + s.par.codec.frameSamples ≤ s.par.spillBytes → gatheredDecode s = .done num name →
    t = said (concludedWords true (gathered s))
      { cidrxCommit num name (gathered s) with rx := (concludedRx .done true (gathered s)).countedDown }

theorem cidrxFail_concluded (hto : s.rx.timeout ≠ 1) (e : ErrCode) :
    cidrxCheckResult (cidrxCountdown (concludeIfOffered (cidrxFail e s))) =
      said (concludedWords s.rx.cidValid s) { raise e s with rx := (concludedRx .fail s.rx.cidValid s).countedDown } :=
  cidrxCheckResult_concluded (st := .fail) rfl (by decide) s.rx.cidValid (s := raise e s) (.inl hto)

theorem cidrxCommit_concluded (hto : s.rx.timeout ≠ 1) (num name : List Byte) :
    cidrxCheckResult (cidrxCountdown (concludeIfOffered (cidrxCommit num name s))) =
      said (concludedWords true s) { cidrxCommit num name s with rx := (concludedRx .done true s).countedDown } :=
  cidrxCheckResult_concluded (st := .done) rfl (by decide) true
    (s := (s |> wr .cidout 0 (cidOutField s.par.numMax num)) |> wr .cidout 17 (cidOutField s.par.nameMax name)) (.inl hto)

theorem cidrxTick_fed (hst : s.rx.st = .decoding) (hfsk : rxDtmf s.cfg = false) (hto : s.rx.timeout ≠ 1) : Fed s (cidrxTick true s) := by
  rw [cidrxTick_feeds hst hfsk]
  refine ⟨fun h => ?_, fun h hd => ?_, fun h hd => ?_, fun num name h hd => ?_⟩
  · rw [cidrxFeed_overflow h, cidrxFail_concluded hto]
  · rw [(cidrxFeed_fits h).1 hd, cidrxCountdown_counts (s := gathered s) (.inl hto)]
    exact cidrxCheckResult_of_quiet (reports_of_decoding hst)
  · rw [(cidrxFeed_fits h).2.1 hd]
    exact cidrxFail_concluded (s := gathered s) hto .cidFail
  · rw [(cidrxFeed_fits h).2.2 num name hd]
    exact cidrxCommit_concluded (s := gathered s) hto num name

end Sys2Proof.Machine

end

/-! PROOFS. The clauses of O57 on the Caller-ID receiver, and O57. -/

section

namespace Sys2Proof.Machine

variable {s t u v : State} {i : Instr} {j k : Nat} {r : Bool}

/-! ### Without a frame -/

theorem exec_tick_rxCounts (h : CalmLine s) (hm : CalmMwi s) (hcase : cidrxTickCase false (counting s) = counting s)
    (hto : s.rx.timeout ≠ 1 ∨ (s.rx.st ≠ .decoding ∧ s.line.st ≠ .idle)) (hquiet : reports s = false) (txready : Bool) :
    exec (.timeTick false txready) s = .next { s with line := s.line.ticked s.par, rx := s.rx.countedDown } := by
  have hrx : atReceiver false s = counting s := rfl
  rw [exec_tick_receiver h hm, hrx, cidrxTick_counts (s := counting s) hcase hto hquiet]
  rfl

theorem exec_tick_timeout (h : CalmLine s) (hm : CalmMwi s) (h1 : s.rx.timeout = 1) (hst : s.rx.st = .decoding)
    (hline : s.line.st ≠ .idle) (txready : Bool) :
    ∃ t, exec (.timeTick false txready) s = .next t ∧
      t.rx = { concludedRx .fail s.rx.cidValid s with timeout := 0 } ∧ t.err = (raise .cidTimeout s).err ∧
      newWords s t = indWord (lineId s) 0xF (.error .cidTimeout) :: concludedWords s.rx.cidValid s ∧
      { t with rx := s.rx, err := s.err, env := { t.env with out := s.env.out } } = { s with line := s.line.ticked s.par } := by
  have hexec := exec_tick_receiver h hm false txready
  rw [show atReceiver false s = counting s from rfl, cidrxTick_timeout (s := counting s) h1 hst hline] at hexec
  refine ⟨_, hexec, rfl, rfl, newWords_eq ?_, rfl⟩
  rw [← List.singleton_append, ← List.append_assoc]
  rfl

theorem exec_tick_abandoned (h : CalmLine s) (hm : CalmMwi s) (h1 : s.rx.timeout = 1) (hst : s.rx.st = .decoding)
    (hline : s.line.st = .idle) (txready : Bool) :
    exec (.timeTick false txready) s =
      .next { raise .cidTimeout s with line := { s.line.ticked s.par with prering := false }, rx := CidRxRegs.reset } := by
  rw [exec_tick_receiver h hm, show atReceiver false s = counting s from rfl, cidrxTick_abandoned (s := counting s) h1 hst hline]
  rfl

theorem exec_tick_forgotten (h : CalmLine s) (hm : CalmMwi s) (h1 : s.rx.timeout = 1) (hst : s.rx.st = .done)
    (hline : s.line.st = .idle) (txready : Bool) :
    exec (.timeTick false txready) s =
      .next { s with line := { s.line.ticked s.par with prering := false }, rx := CidRxRegs.reset } := by
  rw [exec_tick_receiver h hm, show atReceiver false s = counting s from rfl, cidrxTick_forgotten (s := counting s) h1 hst hline]
  rfl

theorem exec_tick_settles (h : CalmLine s) (hm : CalmMwi s) (hst : s.rx.st = .settle) (h0 : s.rx.timeout = 0)
    (h1 : 1 < s.rx.settle) (rxvalid txready : Bool) :
    exec (.timeTick rxvalid txready) s =
      .next { (if rxvalid = true then receiveFrame s else s) with
        line := s.line.ticked s.par, rx := { s.rx with settle := s.rx.settle - 1 } } := by
  have hexec := exec_tick_receiver h hm rxvalid txready
  cases rxvalid
  · rw [cidrxTick_settles (s := atReceiver false s) hst h0 h1] at hexec
    exact hexec
  · rw [cidrxTick_settles (s := atReceiver true s) hst h0 h1] at hexec
    exact hexec

theorem exec_tick_begins (h : CalmLine s) (hm : CalmMwi s) (hst : s.rx.st = .settle) (h1 : s.rx.settle ≤ 1)
    (hto : ticksOf s.par (cfgCidTimeoutMs s.cfg) ≠ 1) (txready : Bool) :
    exec (.timeTick false txready) s =
      .next { s with
        line := s.line.ticked s.par
        rx := { s.rx with
          st := .decoding, settle := 0, rxlen := 0, dtmflen := 0, dtmfOpen := false, cidValid := false,
          timeout := if ticksOf s.par (cfgCidTimeoutMs s.cfg) = 0 then 0 else ticksOf s.par (cfgCidTimeoutMs s.cfg) - 1 } } := by
  rw [exec_tick_receiver h hm, show atReceiver false s = counting s from rfl, cidrxTick_begins (s := counting s) hst h1 hto]
  rfl

/-! ### With a frame -/

theorem exec_tick_watch (h : CalmLine s) (hm : CalmMwi s) (hst : s.rx.st = .off) (h0 : s.rx.timeout = 0)
    (hfeature : hasFeature s.cfg .cidRx = true) (hstart : cidStartOf s.cfg = .dtmfNoAlert) (hidle : s.line.st = .idle)
    (hwin : s.line.postwin ≤ 1) (halarm : s.line.inalarm = false) (hp : s.par.ok) (txready : Bool) :
    ∃ t, exec (.timeTick true txready) s = .next t ∧
      t.rx = (if cfgDtmfThresh s.cfg < (Config.waveforms s.par.codec).frameEnergy (cfgLaw s.cfg) (nextFrame s) then
        settling s.par else s.rx) ∧
      SameBytesBut .rxbuf 0 s.par.codec.frameSamples s t ∧
      { t with rx := s.rx, mem := s.mem, env := s.env } = { s with line := s.line.ticked s.par } ∧
      t.env = { s.env with frames := s.env.frames.tail, framesDrawn := s.env.framesDrawn + 1 } := by
  have hzero : (atReceiver true s).line.postwin = 0 := (countDown_eq_zero _).mpr (by
    have hsame : (received true s).line.postwin = s.line.postwin := rfl
    rw [hsame]
    bv_omega)
  have hquiet : mwiQuiet (atReceiver true s) = true := by
    have hmwi : mwiQuiet (atReceiver true s) = mwiQuiet s := rfl
    rw [hmwi, mwiQuiet, hm.null]
    rfl
  have hopen : WatchOpen (atReceiver true s) := ⟨hfeature, hstart, hidle, hzero, hquiet, halarm⟩
  have hexec := exec_tick_receiver h hm true txready
  rw [cidrxTick_watch hopen hst h0, energyWatch_eq hopen, rxFrame_atReceiver hp] at hexec
  refine ⟨_, hexec, rfl, fun sp a ha hno => ?_, rfl, rfl⟩
  exact (rd_receiveFrame hp sp a ha).trans (if_neg fun hin => hno ⟨hin.1, Nat.zero_le a, hin.2⟩)

/-- The bytes after a frame: it stands in `RXBUF`; where it fits the FSK feed has appended it to `RXACC`, and it may have
committed a result to `CIDOUT`. -/
structure FrameTaken (fits committed : Prop) (s t : State) : Prop where
  bytes : ∀ a < s.par.codec.frameSamples, rd .rxbuf a t = (nextFrame s).getD a 0 ∧
    (fits → rd .rxacc (s.rx.rxlen.toNat + a) t = (nextFrame s).getD a 0)
  others : ∀ sp a, a < 65536 → ¬ (sp = .rxbuf ∧ a < s.par.codec.frameSamples) →
    ¬ (sp = .rxacc ∧ fits ∧ s.rx.rxlen.toNat ≤ a ∧ a < s.rx.rxlen.toNat + s.par.codec.frameSamples) →
    ¬ (sp = .cidout ∧ a < 34 ∧ committed) → rd sp a t = rd sp a s

theorem rd_of_mem (h : t.mem = s.mem) (sp : Space) (a : Nat) : rd sp a t = rd sp a s := by simp only [rd, h]

theorem frameTaken_overflow (hp : s.par.ok) {fits committed : Prop} (hno : ¬ fits) (hmem : t.mem = (receiveFrame s).mem) :
    FrameTaken fits committed s t where
  bytes := fun a ha => by
    have hlt : s.par.codec.frameSamples < 65536 := Space.size_lt hp .rxbuf
    exact ⟨(rd_of_mem hmem _ _).trans ((rd_receiveFrame hp _ a (by omega)).trans (if_pos ⟨rfl, ha⟩)), fun h => absurd h hno⟩
  others := fun sp a ha hbuf _ _ => (rd_of_mem hmem _ _).trans ((rd_receiveFrame hp sp a ha).trans (if_neg hbuf))

/-- The memory after a frame has been appended. -/
theorem frameTaken_gathered (hp : s.par.ok) {fits committed : Prop} (hfits : fits)
    (hle : s.rx.rxlen.toNat + s.par.codec.frameSamples ≤ s.par.spillBytes)
    (hmem : t.mem = (wr .rxacc s.rx.rxlen.toNat (nextFrame s) (receiveFrame s)).mem) : FrameTaken fits committed s t := by
  have hacc : s.par.spillBytes < 65536 := Space.size_lt hp .rxacc
  have hlen := nextFrame_length s
  have hrd (sp : Space) (a : Nat) (ha : a < 65536) :=
    (rd_of_mem hmem sp a).trans (rd_wr .rxacc sp s.rx.rxlen.toNat a (nextFrame s) (receiveFrame s) (by omega) ha)
  refine ⟨fun a ha => ⟨?_, fun _ => ?_⟩, fun sp a ha hbuf hno _ => ?_⟩
  · rw [hrd .rxbuf a (by omega), dif_neg (by simp), rd_receiveFrame hp _ a (by omega), if_pos ⟨rfl, ha⟩]
  · rw [hrd .rxacc _ (by omega), dif_pos ⟨rfl, by omega, by omega⟩, List.getD_eq_getElem _ _ (by omega)]
    simp
  · rw [hrd sp a ha, dif_neg fun hin => hno ⟨hin.1, hfits, hin.2.1, by omega⟩, rd_receiveFrame hp sp a ha, if_neg hbuf]

/-- A commit writes `CIDOUT` alone. -/
theorem FrameTaken.committed {fits committed : Prop} (h : FrameTaken fits False s u) (hsame : SameBytesBut .cidout 0 34 u t)
    (hc : committed) (hp : s.par.ok) (hle : fits → s.rx.rxlen.toNat + s.par.codec.frameSamples ≤ s.par.spillBytes) :
    FrameTaken fits committed s t := by
  have hbuf : s.par.codec.frameSamples < 65536 := Space.size_lt hp .rxbuf
  have hacc : s.par.spillBytes < 65536 := Space.size_lt hp .rxacc
  refine ⟨fun a ha => ⟨?_, fun hfits => ?_⟩, fun sp a ha h1 h2 h3 => ?_⟩
  · rw [hsame .rxbuf a (by omega) (by simp)]
    exact (h.bytes a ha).1
  · have hlt := hle hfits
    rw [hsame .rxacc _ (by omega) (by simp)]
    exact (h.bytes a ha).2 hfits
  · rw [hsame sp a ha fun hin => h3 ⟨hin.1, hin.2.2, hc⟩]
    exact h.others sp a ha h1 h2 fun hin => hin.2.2

/-- What the FSK feed leaves of everything but the receive registers, the errors, the buffers and the outside. -/
structure FedTick (s t : State) : Prop where
  frames : t.env.frames = s.env.frames.tail
  taken : FrameTaken (s.rx.rxlen.toNat + s.par.codec.frameSamples ≤ s.par.spillBytes) (t.rx.cidValid = true) s t
  rest : { t with rx := s.rx, err := s.err, mem := s.mem, env := s.env } = { s with line := s.line.ticked s.par }

/-- What the detector makes of the samples with this frame. -/
def frameDecode (s : State) : CidDecode :=
  cidDecode s.par.codec (rxStd s.cfg) (cfgLaw s.cfg) (rdList .rxacc 0 s.rx.rxlen.toNat s ++ nextFrame s)

theorem rxacc_received (hp : s.par.ok) (n : Nat) (hn : n ≤ 65536) : rdList .rxacc 0 n (receiveFrame s) = rdList .rxacc 0 n s :=
  List.map_congr_left fun a ha => by
    rw [List.mem_range] at ha
    exact (rd_receiveFrame hp .rxacc _ (by omega)).trans (if_neg (by simp))

theorem gatheredDecode_atReceiver (hp : s.par.ok) (h : s.rx.rxlen.toNat + s.par.codec.frameSamples ≤ s.par.spillBytes) :
    gatheredDecode (atReceiver true s) = frameDecode s := by
  have hacc : rdList .rxacc 0 s.rx.rxlen.toNat (atReceiver true s) = rdList .rxacc 0 s.rx.rxlen.toNat s :=
    rxacc_received hp _ (Nat.le_of_lt s.rx.rxlen.isLt)
  have hsamples := gathered_samples (s := atReceiver true s) hp h
  rw [rxFrame_atReceiver hp] at hsamples
  rw [gatheredDecode, hsamples, frameDecode, ← hacc]
  rfl

/-- The state in which the receiver has appended the frame. -/
theorem gathered_atReceiver (hp : s.par.ok) :
    gathered (atReceiver true s) =
      { receiveFrame s with
        line := s.line.counted s.par
        mem := (wr .rxacc s.rx.rxlen.toNat (nextFrame s) (receiveFrame s)).mem
        rx := { s.rx with rxlen := s.rx.rxlen + BitVec.ofNat 16 s.par.codec.frameSamples } } := by
  rw [gathered, rxFrame_atReceiver hp]
  rfl

end Sys2Proof.Machine

end

/-! PROOFS. The FSK feed of a `TICK` (R273), and O57. -/

section

namespace Sys2Proof.Machine

variable {s t u v : State} {i : Instr} {j k : Nat} {r : Bool}

/-- The four ends of the FSK feed in a tick. -/
inductive FedEnd (s t : State) : Prop where
  | overflow (hno : ¬ s.rx.rxlen.toNat + s.par.codec.frameSamples ≤ s.par.spillBytes)
      (rx : t.rx = (concludedRx .fail s.rx.cidValid s).countedDown) (err : t.err = (raise .cidFail s).err)
      (words : newWords s t = indWord (lineId s) 0xF (.error .cidFail) :: concludedWords s.rx.cidValid s)
  | more (hfits : s.rx.rxlen.toNat + s.par.codec.frameSamples ≤ s.par.spillBytes) (hd : frameDecode s = .more)
      (rx : t.rx = { s.rx.countedDown with rxlen := s.rx.rxlen + BitVec.ofNat 16 s.par.codec.frameSamples })
      (words : newWords s t = []) (err : NoError s t)
  | error (hfits : s.rx.rxlen.toNat + s.par.codec.frameSamples ≤ s.par.spillBytes) (hd : frameDecode s = .error)
      (rx : t.rx = { (concludedRx .fail s.rx.cidValid s).countedDown with
        rxlen := s.rx.rxlen + BitVec.ofNat 16 s.par.codec.frameSamples })
      (err : t.err = (raise .cidFail s).err)
      (words : newWords s t = indWord (lineId s) 0xF (.error .cidFail) :: concludedWords s.rx.cidValid s)
  | done (num name : List Byte) (hfits : s.rx.rxlen.toNat + s.par.codec.frameSamples ≤ s.par.spillBytes)
      (hd : frameDecode s = .done num name)
      (rx : t.rx = { (concludedRx .done true s).countedDown with
        rxlen := s.rx.rxlen + BitVec.ofNat 16 s.par.codec.frameSamples })
      (committed : Committed num name t) (words : newWords s t = concludedWords true s) (err : NoError s t)

theorem fed_overflow (hp : s.par.ok) (h : Fed (atReceiver true s) u)
    (hno : ¬ s.rx.rxlen.toNat + s.par.codec.frameSamples ≤ s.par.spillBytes) :
    FedTick s (u.updLine (LineRegs.housekept s.par)) ∧ FedEnd s (u.updLine (LineRegs.housekept s.par)) := by
  have hu := h.overflow (Nat.lt_of_not_le hno)
  have hmem : (u.updLine (LineRegs.housekept s.par)).mem = (receiveFrame s).mem := by rw [hu]; rfl
  refine ⟨⟨by rw [hu]; rfl, frameTaken_overflow hp hno hmem, by rw [hu]; rfl⟩,
    .overflow hno (by rw [hu]; rfl) (by rw [hu]; rfl) (newWords_eq ?_)⟩
  rw [hu, ← List.singleton_append, ← List.append_assoc]
  rfl

theorem fed_more (hp : s.par.ok) (h : Fed (atReceiver true s) u)
    (hfits : s.rx.rxlen.toNat + s.par.codec.frameSamples ≤ s.par.spillBytes) (hd : frameDecode s = .more) :
    FedTick s (u.updLine (LineRegs.housekept s.par)) ∧ FedEnd s (u.updLine (LineRegs.housekept s.par)) := by
  have hu := h.more hfits ((gatheredDecode_atReceiver hp hfits).trans hd)
  rw [gathered_atReceiver hp] at hu
  refine ⟨⟨by rw [hu]; rfl, frameTaken_gathered hp hfits hfits (by rw [hu]; rfl), by rw [hu]; rfl⟩,
    .more hfits hd (by rw [hu]; rfl) (newWords_eq ?_) (by rw [hu]; rfl)⟩
  rw [hu]
  exact (List.append_nil _).symm

theorem fed_error (hp : s.par.ok) (h : Fed (atReceiver true s) u)
    (hfits : s.rx.rxlen.toNat + s.par.codec.frameSamples ≤ s.par.spillBytes) (hd : frameDecode s = .error) :
    FedTick s (u.updLine (LineRegs.housekept s.par)) ∧ FedEnd s (u.updLine (LineRegs.housekept s.par)) := by
  have hu := h.error hfits ((gatheredDecode_atReceiver hp hfits).trans hd)
  rw [gathered_atReceiver hp] at hu
  refine ⟨⟨by rw [hu]; rfl, frameTaken_gathered hp hfits hfits (by rw [hu]; rfl), by rw [hu]; rfl⟩,
    .error hfits hd (by rw [hu]; rfl) (by rw [hu]; rfl) (newWords_eq ?_)⟩
  rw [hu, ← List.singleton_append, ← List.append_assoc]
  rfl

theorem fed_done (hp : s.par.ok) (h : Fed (atReceiver true s) u) {num name : List Byte}
    (hfits : s.rx.rxlen.toNat + s.par.codec.frameSamples ≤ s.par.spillBytes) (hd : frameDecode s = .done num name) :
    FedTick s (u.updLine (LineRegs.housekept s.par)) ∧ FedEnd s (u.updLine (LineRegs.housekept s.par)) := by
  have hu := h.done num name hfits ((gatheredDecode_atReceiver hp hfits).trans hd)
  rw [gathered_atReceiver hp] at hu
  generalize hg : ({ receiveFrame s with
        line := s.line.counted s.par
        mem := (wr .rxacc s.rx.rxlen.toNat (nextFrame s) (receiveFrame s)).mem
        rx := { s.rx with rxlen := s.rx.rxlen + BitVec.ofNat 16 s.par.codec.frameSamples } } : State) = g at hu
  have hpar : g.par = s.par := by rw [← hg]; rfl
  have hgathered : FrameTaken (s.rx.rxlen.toNat + s.par.codec.frameSamples ≤ s.par.spillBytes) False s g :=
    frameTaken_gathered hp hfits hfits (by rw [← hg])
  obtain ⟨hcommitted, hsame⟩ := cidrxCommit_committed (s := g) (t := u.updLine (LineRegs.housekept s.par)) (hpar ▸ hp) num name
    (by rw [hu]; rfl) (by rw [hu]; rfl)
  have hvalid : (u.updLine (LineRegs.housekept s.par)).rx.cidValid = true := by rw [hu]; rfl
  refine ⟨⟨by rw [hu, ← hg]; rfl, hgathered.committed hsame hvalid hp fun h => h, by rw [hu, ← hg]; rfl⟩,
    .done num name hfits hd (by rw [hu, ← hg]; rfl) hcommitted (newWords_eq ?_) (by rw [hu, ← hg]; rfl)⟩
  rw [hu, ← hg]
  rfl

theorem exec_tick_fed (h : CalmLine s) (hm : CalmMwi s) (hst : s.rx.st = .decoding) (hfsk : rxDtmf s.cfg = false)
    (hto : s.rx.timeout ≠ 1) (hp : s.par.ok) (txready : Bool) :
    ∃ t, exec (.timeTick true txready) s = .next t ∧ FedTick s t ∧ FedEnd s t := by
  have hfed := cidrxTick_fed (s := atReceiver true s) hst hfsk hto
  refine ⟨_, exec_tick_receiver h hm true txready, ?_⟩
  generalize cidrxTick true (atReceiver true s) = u at hfed
  by_cases hfits : s.rx.rxlen.toNat + s.par.codec.frameSamples ≤ s.par.spillBytes
  · cases hd : frameDecode s with
    | more => exact fed_more hp hfed hfits hd
    | error => exact fed_error hp hfed hfits hd
    | done num name => exact fed_done hp hfed hfits hd
  · exact fed_overflow hp hfed hfits

end Sys2Proof.Machine

namespace Sys2Proof

open Sys2Proof.Machine

/-- Settles O57: the parts of a `TICK` that have something to do, with the others at rest. -/
theorem tickWord : Obligations.TickWord := by
  intro s rxvalid txready hc n
  refine ⟨fun hst hgo hrx hm => exec_tick_counts (countingLine_of_idle hc hst) (.inl hgo) hrx hm.waits,
    fun h hgo hrx hm => exec_tick_counts h hgo hrx hm,
    fun h hgo hrx hm hpos hrd ha => exec_tick_frame h hgo hrx hm hpos hrd ha, fun hst hringing h1 => ?ringOut,
    fun hst hringing h1 hgo => exec_tick_ringing hc hst hringing h1 hgo rxvalid txready,
    fun hst => exec_tick_guard hc hst rxvalid txready, fun hp => ?rxbuf,
    fun h hgo hrd hlast hrx hm ha => exec_tick_spillSent h hgo hrx hrd hlast ha ?spillSent,
    fun hst hoff hcw hown hrx hto hm hp => exec_tick_alert_begun hc hst hoff hcw hown hrx hto hm hp, fun h hm => ?receiver⟩
  case ringOut =>
    obtain ⟨t, hexec, ht⟩ := exec_tick_ringOut hc hst hringing h1 rxvalid txready
    exact ⟨t, hexec, ht.st, ht.hook, ht.ringing, ht.guard, ht.free, fun x hx => (ht.told x hx).newWords⟩
  case rxbuf =>
    obtain ⟨t, hexec, hframes, hbytes⟩ := exec_tick_rxbuf hc hp txready
    exact ⟨t, hexec, hframes, hbytes, fun f fs => nextFrame_of_given⟩
  case spillSent =>
    obtain hm | ⟨hnull, hidle⟩ := hm
    · exact ⟨hm.null, .inl hm.noneWaiting⟩
    · exact ⟨hnull, .inr hidle⟩
  intro count counts
  refine ⟨fun hst hto => exec_tick_rxCounts h hm (cidrxTickCase_decoding (s := counting s) hst) (.inl hto)
      (reports_of_decoding hst) txready,
    fun hst hdue hto => exec_tick_rxCounts h hm (cidrxTickCase_done (s := counting s) hst _) ?_ (reports_of_notDue hdue) txready,
    fun h1 hst hline => exec_tick_timeout h hm h1 hst hline txready,
    fun h1 hst hline => exec_tick_abandoned h hm h1 hst hline txready,
    fun h1 hst hline => exec_tick_forgotten h hm h1 hst hline txready,
    fun hst h0 h1 => exec_tick_settles h hm hst h0 h1 rxvalid txready,
    fun hst h0 h1 hto => exec_tick_begins h hm hst h1 hto txready,
    fun hst h0 hfeature hstart hidle hwin halarm hp => exec_tick_watch h hm hst h0 hfeature hstart hidle hwin halarm hp txready,
    fun hst hfsk hto hp => ?fsk⟩
  · exact hto.imp id fun hidle => ⟨by rw [hst]; decide, hidle⟩
  case fsk =>
    intro samples decoded fits fed
    obtain ⟨t, hexec, htick, hend⟩ := exec_tick_fed h hm hst hfsk hto hp txready
    refine ⟨t, hexec, htick.frames, htick.taken.bytes, htick.taken.others, htick.rest, ?_⟩
    obtain ⟨hno, hrx, herr, hwords⟩ | ⟨hfits, hd, hrx, hwords, herr⟩ | ⟨hfits, hd, hrx, herr, hwords⟩ |
      ⟨num, name, hfits, hd, hrx, hcommitted, hwords, herr⟩ := hend
    · exact ⟨fun hfits => absurd hfits hno, fun hfits => absurd hfits hno, fun _ _ hfits => absurd hfits hno,
        fun _ => ⟨hrx, herr, hwords⟩⟩
    · exact ⟨fun _ _ => ⟨hrx, hwords, herr⟩, fun _ h => (CidDecode.noConfusion (hd.symm.trans h)),
        fun _ _ _ h => (CidDecode.noConfusion (hd.symm.trans h)), fun hno => absurd hfits hno⟩
    · exact ⟨fun _ h => (CidDecode.noConfusion (hd.symm.trans h)), fun _ _ => ⟨hrx, herr, hwords⟩,
        fun _ _ _ h => (CidDecode.noConfusion (hd.symm.trans h)), fun hno => absurd hfits hno⟩
    · refine ⟨fun _ h => (CidDecode.noConfusion (hd.symm.trans h)), fun _ h => (CidDecode.noConfusion (hd.symm.trans h)),
        fun num' name' _ h => ?_, fun hno => absurd hfits hno⟩
      obtain ⟨rfl, rfl⟩ := CidDecode.done.inj (hd.symm.trans h)
      exact ⟨hrx, hcommitted, hwords, herr⟩

end Sys2Proof

end

/-! PROOFS. The MWI engine: what starts a sequence, and the spill it sends (R341, R342, R346). -/

section

namespace Sys2Proof.Machine

variable {s t u v : State} {i : Instr} {j k : Nat} {b pending : Bool} {x : MwiState}

/-! ### The start (R342) -/

theorem mwiQuiet_eq (s : State) : mwiQuiet s = !s.mwi.st.isActive := by
  rw [mwiQuiet]
  cases s.mwi.st <;> rfl

theorem mwiMayStart_iff : mwiMayStart s = true ↔ s.mwi.pending = true ∧ hasFeature s.cfg .mwiSend = true ∧ QuietForMwi s := by
  simp only [mwiMayStart, mwiQuiet_eq, Bool.and_eq_true, Bool.not_eq_true', beq_iff_eq]
  constructor
  · rintro ⟨⟨⟨⟨⟨⟨⟨⟨⟨hp, hf⟩, ha⟩, hi⟩, hu⟩, hk⟩, hl⟩, hr⟩, hpre⟩, hs⟩
    exact ⟨hp, hf, ha, hi, hu, hk, hl, hr, hpre, hs⟩
  · rintro ⟨hp, hf, ha, hi, hu, hk, hl, hr, hpre, hs⟩
    exact ⟨⟨⟨⟨⟨⟨⟨⟨⟨hp, hf⟩, ha⟩, hi⟩, hu⟩, hk⟩, hl⟩, hr⟩, hpre⟩, hs⟩

theorem mwiMayStart_of_active (h : s.mwi.st.isActive = true) : mwiMayStart s = false := by
  simp [mwiMayStart, mwiQuiet_eq, h]

theorem mwiTryStart_alert (hmay : mwiMayStart s = true) (hrpas : hasFeature s.cfg .mwiRpas = true) :
    mwiTryStart s = s.updMwi fun m => { m with pending := false, st := .sendAlert } := by
  rw [mwiTryStart, onlyIf_true hmay]
  exact if_pos hrpas

theorem mwiTryStart_spill (hmay : mwiMayStart s = true) (hrpas : hasFeature s.cfg .mwiRpas = false) :
    mwiTryStart s = mwiEnterSendSpill (s.updMwi fun m => { m with pending := false }) := by
  rw [mwiTryStart, onlyIf_true hmay]
  exact if_neg (by simp [hrpas])

/-! ### The spill (R346) -/

/-- The message as this Line's modem sends it. -/
def messageSamples (b : Bool) (s : State) : List Byte :=
  (Config.waveforms s.par.codec).synthFsk (if cidSigOf s.cfg = CidSig.v23 then Config.FskStd.v23 else Config.FskStd.bell202)
    (cfgLaw s.cfg) (fskBits s.par.codec .mwi (mwiMsg s.par.codec b))

theorem mwiStd_eq (c : CfgRegs) : mwiStd c = if cidSigOf c = CidSig.v23 then Config.FskStd.v23 else Config.FskStd.bell202 := by
  rw [mwiStd]
  cases cidSigOf c <;> rfl

theorem mwiSamples_eq (s : State) : mwiSamples s = messageSamples s.mwi.msgs s := by rw [mwiSamples, mwiStd_eq, messageSamples]

/-- The engine sends its message (R346). -/
structure Sends (b pending : Bool) (s t : State) : Prop where
  mwi : t.mwi = { s.mwi with msgs := b, pending := pending, st := .sendSpill }
  begun : SpillBegun .mwi (messageSamples b s) s t
  len : t.tx.len.toNat = s.par.codec.bitStart
    (s.par.codec.seizureBits + s.par.codec.preMarkBits + 60 + s.par.codec.postMarkBits)
  lenDefault : s.par.codec = {} → t.tx.len = 4000
  cw : t.banks.cw.logical = s.banks.cw.logical
  tw : t.banks.tw.logical = s.banks.tw.logical
  rx : t.rx = s.rx
  cfg : t.cfg = s.cfg
  inputs : SameInputs s t
  noError : Accepting s → NoError s t

/-- The engine with these registers. -/
def withMwi (b pending : Bool) (x : MwiState) (s : State) : State := s.updMwi fun m => { m with msgs := b, pending := pending, st := x }

theorem mwiSamples_withMwi : mwiSamples (withMwi b pending x s) = messageSamples b s := mwiSamples_eq _

theorem Passes.sends_begun {f : LineRegs → LineRegs} (h : Passes 9 ((mwiSpilled (withMwi b pending x s)).updLine f) t) (hp : s.par.ok) :
    SpillBegun .mwi (messageSamples b s) s t ∧ t.tx.len.toNat = (messageSamples b s).length := by
  have hsize : (messageSamples b s).length ≤ s.par.spillBytes := by
    rw [← mwiSamples_withMwi (pending := pending) (x := x)]
    exact mwiSamples_length_le (s := withMwi b pending x s) hp
  have hle := length_le_of_le_spillBytes hp hsize
  have htx : t.tx =
      { kind := .mwi, len := BitVec.ofNat 16 (mwiSamples (withMwi b pending x s)).length, rd := 0, go := true
        linSaved := linearAfterDiscard s } := h.tx
  have hmem : t.mem = (wr .spill 0 (mwiSamples (withMwi b pending x s)) s).mem := h.mem
  rw [mwiSamples_withMwi] at htx hmem
  have hreal : t.banks.real.logical = { s.banks.real with linear := false }.logical := (h.banks .r).logical
  have hconf : t.conf.logical = { s.conf with confSusp := true, saveconf := s.banks.real.cur }.logical := h.conf
  have hlen : t.tx.len.toNat = (messageSamples b s).length := by
    rw [htx]
    exact toNat_ofNat_of_le_spillBytes hp hsize
  generalize messageSamples b s = samples at htx hmem hle hlen
  obtain ⟨hbytes, hothers⟩ := loaded_of_mem hle hmem
  exact ⟨⟨htx, hbytes, hothers, hreal, hconf⟩, hlen⟩

theorem Passes.sends {f : LineRegs → LineRegs} (h : Passes 9 ((mwiSpilled (withMwi b pending x s)).updLine f) t) (hp : s.par.ok) :
    t.line = f { s.line with postwin := 0 } ∧ Sends b pending s t := by
  obtain ⟨hbegun, hcount⟩ := h.sends_begun hp
  have hlen : t.tx.len.toNat = s.par.codec.bitStart
      (s.par.codec.seizureBits + s.par.codec.preMarkBits + 60 + s.par.codec.postMarkBits) := by
    rw [hcount, ← mwiSamples_withMwi (pending := pending) (x := x)]
    exact mwiSamples_length _
  have hmwi : t.mwi = { s.mwi with msgs := b, pending := pending, st := .sendSpill } := h.mwi
  have hcw : t.banks.cw.logical = s.banks.cw.logical := (h.banks .cw).logical
  have htw : t.banks.tw.logical = s.banks.tw.logical := (h.banks .tw).logical
  have hno : Accepting s → NoError s t := h.noError rfl rfl (by decide)
  exact ⟨h.line, hmwi, hbegun, hlen, fun hdef => BitVec.eq_of_toNat_eq (hlen.trans (by rw [hdef]; rfl)), hcw, htw, h.rx, h.cfg,
    ⟨h.events, h.frames⟩, hno⟩

end Sys2Proof.Machine

end

/-! PROOFS. `MWINOTIFY` (R341), and the branches of the engine in a `TICK` (R342 to R348). -/

section

namespace Sys2Proof.Machine

variable {s t u v : State} {i : Instr} {j k : Nat} {b pending : Bool} {x : MwiState} {l : LineRegs}

/-! ### `MWINOTIFY` -/

theorem exec_hostMwinotify_of_configured (h : s.line.configured = true) (b : Bool) :
    exec (.hostMwinotify b) s = .next (hostMwinotifyBody b s) := congrArg Host.Outcome.next (hostEntry_configured h)

theorem hostMwinotifyBody_same (h : b = s.mwi.msgs) : hostMwinotifyBody b s = s := onlyIf_false (by simp [h])

theorem hostMwinotifyBody_unsent (h : b ≠ s.mwi.msgs) (hf : hasFeature s.cfg .mwiSend = false) :
    hostMwinotifyBody b s = { s with mwi := { s.mwi with msgs := b } } := by
  rw [hostMwinotifyBody, onlyIf_true (by simp [h])]
  exact onlyIf_false hf

theorem hostMwinotifyBody_latched (h : b ≠ s.mwi.msgs) (hf : hasFeature s.cfg .mwiSend = true) :
    hostMwinotifyBody b s = mwiTryStart { s with mwi := { s.mwi with msgs := b, pending := true } } := by
  rw [hostMwinotifyBody, onlyIf_true (by simp [h])]
  exact onlyIf_true hf

theorem quietForMwi_congr (hm : s.mwi.st.isActive = false) {m : MwiRegs} (hm' : m.st.isActive = false) (h : l.st = s.line.st)
    (hhook : l.hook = s.line.hook) (hal : l.inalarm = s.line.inalarm) (hpre : l.prering = s.line.prering) :
    QuietForMwi { s with line := l, mwi := m } ↔ QuietForMwi s := by
  constructor
  · rintro ⟨-, hidle, hfree, hoff, hno, hcid, hnopre, hspill⟩
    exact ⟨hm, h ▸ hidle, hfree, hhook ▸ hoff, hal ▸ hno, hcid, hpre ▸ hnopre, hspill⟩
  · rintro ⟨-, hidle, hfree, hoff, hno, hcid, hnopre, hspill⟩
    exact ⟨hm', h.trans hidle, hfree, hhook.trans hoff, hal.trans hno, hcid, hpre.trans hnopre, hspill⟩

theorem quietForMwi_latched : QuietForMwi { s with mwi := { s.mwi with msgs := b, pending := pending } } ↔ QuietForMwi s := by
  constructor <;> rintro ⟨hm, hidle, hfree, hoff, hno, hcid, hnopre, hspill⟩ <;>
  exact ⟨hm, hidle, hfree, hoff, hno, hcid, hnopre, hspill⟩

/-! ### The engine in a `TICK` -/

theorem mwiMayStart_of_noneLatched (h : s.mwi.pending = false) : mwiMayStart s = false := by simp [mwiMayStart, h]

/-- On an Idle line with nothing to send or to receive, the engine and housekeeping are what is left of a tick. -/
theorem exec_tick_engine (h : CalmLine s) (hrx : CalmRx s) (txready : Bool) :
    exec (.timeTick false txready) s = .next (housekeepingTick (mwiTick (counting s))) := by
  have hspill : spillTick txready (counting s) = counting s := spillTick_idle (.inl h.noSpill)
  have hcalm : CalmRx (counting s) := ⟨hrx.off, hrx.noTimeout, hrx.noneDue⟩
  rw [exec_tick_counting h.toCountingLine, hspill, cidrxTick_calm hcalm]

/-- The tick's end where housekeeping starts nothing. -/
theorem exec_tick_engine_quiet (h : CalmLine s) (hrx : CalmRx s) (txready : Bool) (ht : mwiTick (counting s) = t)
    (hpar : t.par = s.par) (hno : t.line.hkcnt ≤ 1 → mwiMayStart t = false) :
    exec (.timeTick false txready) s = .next (t.updLine (LineRegs.housekept s.par)) := by
  rw [exec_tick_engine h hrx, ht, housekeepingTick_quiet hno, hpar]

theorem mwiTick_sendAlert (hst : s.mwi.st = .sendAlert) (ha : AcceptingNext s) :
    mwiTick s = setMwi .alertWait (spoke (lrWord (lineId s) (realH s) (.setHook .ring)) s) := by
  rw [mwiTick, hst]
  exact lrRealCase_of_acceptingNext ha _ _ _

theorem mwiTick_alertRefused (hst : s.mwi.st = .sendAlert) (href : Refusing s) :
    mwiTick s = mwiGiveUp (raise .lrCtrl (spoke (lrWord (lineId s) (realH s) (.setHook .ring)) s)) := by
  rw [mwiTick, hst]
  exact lrRealCase_of_refusing href _ _ _

theorem mwiTick_paused (hst : s.mwi.st = .pause) (h : reachedAt s.line.now s.mwi.deadline = false) : mwiTick s = s := by
  rw [mwiTick, hst]
  exact onlyIf_false h

theorem mwiTick_pauseEnds (hst : s.mwi.st = .pause) (h : reachedAt s.line.now s.mwi.deadline = true) :
    mwiTick s = mwiEnterSendSpill s := by
  rw [mwiTick, hst]
  exact onlyIf_true h

theorem mwiTick_spillGone (hst : s.mwi.st = .sendSpill) (h : s.tx.kind = .none) : mwiTick s = setMwi .cleanup s := by
  rw [mwiTick, hst]
  exact onlyIf_true (by simp [h])

theorem mwiTick_cleanup (hst : s.mwi.st = .cleanup) : mwiTick s = setMwi .done (said [indWord (lineId s) 0xF (.mwiDone true)] s) := by
  rw [mwiTick, hst]
  rfl

theorem mwiTick_done (hst : s.mwi.st = .done) : mwiTick s = mwiTryStart (setMwi .null s) := by rw [mwiTick, hst]

/-- A state with the line registers of a tick and these registers of the engine may start as it might before. -/
theorem mwiMayStart_ticking (hm : s.mwi.st.isActive = false) (hx : x.isActive = false) (hst : l.st = s.line.st)
    (hhook : l.hook = s.line.hook) (hal : l.inalarm = s.line.inalarm) (hpre : l.prering = s.line.prering) :
    mwiMayStart { s with line := l, mwi := { s.mwi with st := x } } = mwiMayStart s := by
  rw [Bool.eq_iff_iff, mwiMayStart_iff, mwiMayStart_iff]
  exact and_congr_right fun _ => and_congr_right fun _ => quietForMwi_congr (m := { s.mwi with st := x }) hm hx hst hhook hal hpre

theorem mwiEnterSendSpill_sends {f : LineRegs → LineRegs} (hp : s.par.ok) (l : LineRegs)
    (hu : u = { withMwi b pending x s with line := l }) :
    ((mwiEnterSendSpill u).updLine f).line = f { l with postwin := 0 } ∧ Sends b pending s ((mwiEnterSendSpill u).updLine f) := by
  have hpass : Passes 9 ((mwiSpilled (withMwi b pending x s)).updLine fun _ => f { l with postwin := 0 })
      ((mwiEnterSendSpill u).updLine f) := by
    have h := (mwiEnterSendSpill_passes u).updLine f
    rw [hu] at h ⊢
    exact h
  exact hpass.sends hp

end Sys2Proof.Machine

end

/-! PROOFS. The ticks of the MWI engine (R342 to R348), and O55. -/

section

namespace Sys2Proof.Machine

variable {s t u v : State} {i : Instr} {j k : Nat} {b pending : Bool} {x : MwiState} {l : LineRegs}

/-! ### Ticks that only move the engine -/

theorem exec_tick_alertRung (h : CalmLine s) (hrx : CalmRx s) (hst : s.mwi.st = .sendAlert) (ha : AcceptingNext s) (txready : Bool) :
    exec (.timeTick false txready) s =
      .next { spoke (lrWord (lineId s) (handleField s.banks.real.res) (.setHook .ring)) s with
        line := s.line.ticked s.par, mwi := { s.mwi with st := .alertWait } } :=
  exec_tick_engine_quiet h hrx txready (mwiTick_sendAlert (s := counting s) hst ha) rfl fun _ => mwiMayStart_of_active rfl

theorem exec_tick_alertRefused (h : CalmLine s) (hrx : CalmRx s) (hst : s.mwi.st = .sendAlert) (href : Refusing s)
    (hk : 1 < s.line.hkcnt) (txready : Bool) :
    exec (.timeTick false txready) s =
      .next { said [indWord (lineId s) 0xF (.mwiDone false)] (raise .lrCtrl
          (spoke (lrWord (lineId s) (handleField s.banks.real.res) (.setHook .ring)) s)) with
        line := s.line.ticked s.par, mwi := { s.mwi with st := .done, pending := true } } :=
  exec_tick_engine_quiet h hrx txready (mwiTick_alertRefused (s := counting s) hst href) rfl
    fun hle => absurd hk (BitVec.not_lt.mpr hle)

theorem exec_tick_paused (h : CalmLine s) (hrx : CalmRx s) (hst : s.mwi.st = .pause)
    (hr : reachedAt (s.line.ticked s.par).now s.mwi.deadline = false) (txready : Bool) :
    exec (.timeTick false txready) s = .next { s with line := s.line.ticked s.par } :=
  exec_tick_engine_quiet h hrx txready (mwiTick_paused (s := counting s) hst hr) rfl
    fun _ => mwiMayStart_of_active (congrArg MwiState.isActive hst)

theorem exec_tick_spillGone (h : CalmLine s) (hrx : CalmRx s) (hst : s.mwi.st = .sendSpill) (hkind : s.tx.kind = .none)
    (txready : Bool) :
    exec (.timeTick false txready) s = .next { s with line := s.line.ticked s.par, mwi := { s.mwi with st := .cleanup } } :=
  exec_tick_engine_quiet h hrx txready (mwiTick_spillGone (s := counting s) hst hkind) rfl fun _ => mwiMayStart_of_active rfl

theorem exec_tick_cleanup (h : CalmLine s) (hrx : CalmRx s) (hst : s.mwi.st = .cleanup)
    (hno : 1 < s.line.hkcnt ∨ s.mwi.pending = false) (txready : Bool) :
    exec (.timeTick false txready) s =
      .next { said [indWord (lineId s) 0xF (.mwiDone true)] s with
        line := s.line.ticked s.par, mwi := { s.mwi with st := .done } } := by
  refine exec_tick_engine_quiet h hrx txready (mwiTick_cleanup (s := counting s) hst) rfl fun hle => ?_
  obtain hk | hp := hno
  · exact absurd hk (BitVec.not_lt.mpr hle)
  · exact mwiMayStart_of_noneLatched hp

/-! ### Ticks that start the spill -/

theorem mwiEnterSendSpill_active (s : State) : mwiMayStart (mwiEnterSendSpill s) = false := mwiMayStart_of_active rfl

/-- A tick that begins the spill (R346): the line registers and the engine's spill. -/
theorem exec_tick_sends (h : CalmLine s) (hrx : CalmRx s) (hp : s.par.ok) (txready : Bool) (x : MwiState)
    (ht : mwiTick (counting s) = mwiEnterSendSpill { withMwi b pending x s with line := s.line.counted s.par }) :
    ∃ t, exec (.timeTick false txready) s = .next t ∧ t.line = { s.line.ticked s.par with postwin := 0 } ∧ Sends b pending s t := by
  have hpar := (mwiEnterSendSpill_passes { withMwi b pending x s with line := s.line.counted s.par }).par
  have hexec := exec_tick_engine_quiet h hrx txready ht hpar fun _ => mwiEnterSendSpill_active _
  exact ⟨_, hexec, mwiEnterSendSpill_sends hp (s.line.counted s.par) rfl⟩

theorem exec_tick_pauseEnds (h : CalmLine s) (hrx : CalmRx s) (hst : s.mwi.st = .pause)
    (hr : reachedAt (s.line.ticked s.par).now s.mwi.deadline = true) (hp : s.par.ok) (txready : Bool) :
    ∃ t, exec (.timeTick false txready) s = .next t ∧ t.line = { s.line.ticked s.par with postwin := 0 } ∧
      Sends s.mwi.msgs s.mwi.pending s t :=
  exec_tick_sends h hrx hp txready s.mwi.st (mwiTick_pauseEnds (s := counting s) hst hr)

/-! ### Ticks in which a latched notification may start (R348, R369) -/

/-- The engine at Done, with the line's counters run, is in NULL. -/
theorem mwiMayStart_done (hst : s.mwi.st = .done) : mwiMayStart (setMwi .null (counting s)) = mwiMayStart s :=
  mwiMayStart_ticking (s := s) (x := .null) (by rw [hst]; rfl) rfl rfl rfl rfl rfl

theorem exec_tick_doneRests (h : CalmLine s) (hrx : CalmRx s) (hst : s.mwi.st = .done) (hno : mwiMayStart s = false)
    (txready : Bool) :
    exec (.timeTick false txready) s = .next { s with line := s.line.ticked s.par, mwi := { s.mwi with st := .null } } := by
  have hmay := (mwiMayStart_done hst).trans hno
  exact exec_tick_engine_quiet h hrx txready ((mwiTick_done (s := counting s) hst).trans (mwiTryStart_no hmay)) rfl fun _ => hmay

theorem exec_tick_doneAlerts (h : CalmLine s) (hrx : CalmRx s) (hst : s.mwi.st = .done) (hmay : mwiMayStart s = true)
    (hrpas : hasFeature s.cfg .mwiRpas = true) (txready : Bool) :
    exec (.timeTick false txready) s =
      .next { s with line := s.line.ticked s.par, mwi := { s.mwi with st := .sendAlert, pending := false } } :=
  exec_tick_engine_quiet h hrx txready
    ((mwiTick_done (s := counting s) hst).trans (mwiTryStart_alert ((mwiMayStart_done hst).trans hmay) hrpas)) rfl
    fun _ => mwiMayStart_of_active rfl

theorem exec_tick_doneSends (h : CalmLine s) (hrx : CalmRx s) (hst : s.mwi.st = .done) (hmay : mwiMayStart s = true)
    (hrpas : hasFeature s.cfg .mwiRpas = false) (hp : s.par.ok) (txready : Bool) :
    ∃ t, exec (.timeTick false txready) s = .next t ∧ t.line = { s.line.ticked s.par with postwin := 0 } ∧
      Sends s.mwi.msgs false s t :=
  exec_tick_sends h hrx hp txready .null
    ((mwiTick_done (s := counting s) hst).trans (mwiTryStart_spill ((mwiMayStart_done hst).trans hmay) hrpas))

theorem exec_tick_null (h : CalmLine s) (hrx : CalmRx s) (hst : s.mwi.st = .null) (txready : Bool) :
    exec (.timeTick false txready) s = .next (housekeepingTick (counting s)) := by
  have htick : mwiTick (counting s) = counting s := by
    have hst' : (counting s).mwi.st = .null := hst
    rw [mwiTick, hst']
  rw [exec_tick_engine h hrx, htick]

theorem mwiMayStart_null (hst : s.mwi.st = .null) (l : LineRegs) (hl : l = s.line.counted s.par ∨ l = s.line.ticked s.par) :
    mwiMayStart { s with line := l } = mwiMayStart s := by
  have hm : s.mwi.st.isActive = false := by rw [hst]; rfl
  obtain rfl | rfl := hl
  · exact mwiMayStart_ticking (x := s.mwi.st) hm hm rfl rfl rfl rfl
  · exact mwiMayStart_ticking (x := s.mwi.st) hm hm rfl rfl rfl rfl

theorem exec_tick_nullRests (h : CalmLine s) (hrx : CalmRx s) (hst : s.mwi.st = .null)
    (hno : 1 < s.line.hkcnt ∨ mwiMayStart s = false) (txready : Bool) :
    exec (.timeTick false txready) s = .next { s with line := s.line.ticked s.par } := by
  have hquiet : (counting s).line.hkcnt ≤ 1 → mwiMayStart (counting s) = false := fun hle => by
    obtain hk | hno := hno
    · exact absurd hk (BitVec.not_lt.mpr hle)
    · exact (mwiMayStart_null hst _ (.inl rfl)).trans hno
  rw [exec_tick_null h hrx hst, housekeepingTick_quiet hquiet]
  rfl

theorem exec_tick_nullTries (h : CalmLine s) (hrx : CalmRx s) (hst : s.mwi.st = .null) (hk : s.line.hkcnt ≤ 1) (txready : Bool) :
    exec (.timeTick false txready) s = .next (mwiTryStart { s with line := s.line.ticked s.par }) := by
  have hkeep : housekeepingTick (counting s) = mwiTryStart { s with line := s.line.ticked s.par } := by
    rw [housekeepingTick_eq, if_pos (show (counting s).line.hkcnt ≤ 1 from hk)]
    rfl
  rw [exec_tick_null h hrx hst, hkeep]

theorem exec_tick_nullAlerts (h : CalmLine s) (hrx : CalmRx s) (hst : s.mwi.st = .null) (hk : s.line.hkcnt ≤ 1)
    (hmay : mwiMayStart s = true) (hrpas : hasFeature s.cfg .mwiRpas = true) (txready : Bool) :
    exec (.timeTick false txready) s =
      .next { s with line := s.line.ticked s.par, mwi := { s.mwi with st := .sendAlert, pending := false } } := by
  rw [exec_tick_nullTries h hrx hst hk, mwiTryStart_alert ((mwiMayStart_null hst _ (.inr rfl)).trans hmay) hrpas]
  rfl

theorem exec_tick_nullSends (h : CalmLine s) (hrx : CalmRx s) (hst : s.mwi.st = .null) (hk : s.line.hkcnt ≤ 1)
    (hmay : mwiMayStart s = true) (hrpas : hasFeature s.cfg .mwiRpas = false) (hp : s.par.ok) (txready : Bool) :
    ∃ t, exec (.timeTick false txready) s = .next t ∧ t.line = { s.line.ticked s.par with postwin := 0 } ∧
      Sends s.mwi.msgs false s t := by
  have hexec := exec_tick_nullTries h hrx hst hk txready
  rw [mwiTryStart_spill ((mwiMayStart_null hst _ (.inr rfl)).trans hmay) hrpas] at hexec
  exact ⟨_, hexec, mwiEnterSendSpill_sends (b := s.mwi.msgs) (pending := false) (x := s.mwi.st) (f := id) hp (s.line.ticked s.par) rfl⟩

end Sys2Proof.Machine

end

/-! PROOFS. The frame of the engine's spill that is refused (R257, R350), and O55. -/

section

namespace Sys2Proof.Machine

variable {s t u v : State} {i : Instr} {j k : Nat} {b pending : Bool} {x : MwiState} {l : LineRegs}

/-! ### The engine leaves the receiver alone -/

theorem mwiEnterSendSpill_rx (s : State) : (mwiEnterSendSpill s).rx = s.rx := (mwiEnterSendSpill_passes s).rx

theorem mwiTryStart_rx (s : State) : (mwiTryStart s).rx = s.rx := by
  cases hmay : mwiMayStart s
  · rw [mwiTryStart_no hmay]
  · cases hrpas : hasFeature s.cfg .mwiRpas
    · rw [mwiTryStart_spill hmay hrpas, mwiEnterSendSpill_rx]
      rfl
    · rw [mwiTryStart_alert hmay hrpas]
      rfl

theorem mwiTick_done_rx (hst : s.mwi.st = .done) : (mwiTick s).rx = s.rx := by
  rw [mwiTick_done hst, mwiTryStart_rx]
  rfl

theorem housekeepingTick_rx (s : State) : (housekeepingTick s).rx = s.rx := by
  rw [housekeepingTick_eq]
  split
  · exact mwiTryStart_rx _
  · rfl

/-! ### The refused frame -/

/-- What the loss of the resource leaves on an Idle line with an active engine. -/
structure LostIdle (s t : State) : Prop where
  idle : t.line.st = .idle
  rx : t.rx = CidRxRegs.reset
  done : t.mwi.st = .done
  out : (raise .fatal s).env.out <+: t.env.out
  told : s.mwi.st ≠ .cleanup → Told (indWord (lineId s) 0xF (.mwiDone false)) s t

theorem fatalLoss_lostIdle (hst : s.line.st = .idle) (ha : s.mwi.st.isActive = true) : LostIdle s (fatalLoss s) := by
  have haborted := mwiAbortIfActive_aborted (s := raise .fatal s) ha
  have hidle := (fatalLoss_quiet (.inl hst)).st.trans hst
  rw [fatalLoss_noCall (.inl hst)] at hidle ⊢
  generalize mwiAbortIfActive (raise .fatal s) = u at haborted hidle
  have hpass := lossMove_acts.thenPass u
  have hrx : (reconcilePass (lossMove u)).rx = CidRxRegs.reset := hpass.rx
  have hmwi : (reconcilePass (lossMove u)).mwi = u.mwi := hpass.mwi
  have hout : u.env.out <+: (reconcilePass (lossMove u)).env.out := hpass.out
  generalize reconcilePass (lossMove u) = t at hidle hrx hmwi hout
  have hdone : u.mwi.st = .done := by rw [haborted.mwi]; rfl
  obtain ⟨ws, hws, -⟩ := id haborted.told
  have hprefix : (raise .fatal s).env.out <+: u.env.out := ⟨ws, hws.symm⟩
  refine ⟨hidle, hrx, by rw [hmwi, hdone], hprefix.trans hout, fun hne => ?_⟩
  have htold := haborted.told
  have hno : ((raise .fatal s).mwi.st == .cleanup) = false := beq_eq_false_iff_ne.mpr hne
  rw [hno] at htold
  exact (htold.after (raise_talk .fatal s).out).before hout

/-- What the refused frame of the engine's spill leaves. -/
theorem exec_tick_mwiRefused (h : CountingLine s) (hst : s.line.st = .idle) (hm : s.mwi.st = .sendSpill)
    (hgo : s.tx.go = true) (hpos : 0 < s.par.codec.frameSamples) (hrd : s.tx.rd < s.tx.len) (href : Refusing s) :
    ∃ t, exec (.timeTick false true) s = .next t ∧ t.line.st = .idle ∧ t.rx = CidRxRegs.reset ∧
      (newWords s t).take 2 =
        [frameWord (BitVec.ofNat 16 (min s.par.codec.frameSamples (s.tx.len.toNat - s.tx.rd.toNat))) s,
          indWord (lineId s) 0xF (.error .fatal)] ∧
      indWord (lineId s) 0xF (.mwiDone false) ∈ newWords s t := by
  obtain ⟨w, hw⟩ : ∃ w, w = spoke (frameWord (BitVec.ofNat 16 (frameCount s)) s) (counting s) := ⟨_, rfl⟩
  have hspill : spillTick true (counting s) = fatalLoss w := by
    rw [spillTick_ready (s := counting s) hgo, spillTx_refused (s := counting s) (frameCount_ne_zero (s := counting s) hpos hrd) href, hw]
    rfl
  have hlost : LostIdle w (fatalLoss w) := by
    refine fatalLoss_lostIdle ?_ ?_
    · rw [hw]; exact hst
    · rw [hw]; exact congrArg MwiState.isActive hm
  have hexec := exec_tick_counting h true
  rw [hspill] at hexec
  generalize fatalLoss w = u at hlost hexec
  obtain ⟨hidle, hrx, hdone, hout, htold⟩ := hlost
  rw [cidrxTick_calm ⟨by rw [hrx]; rfl, by rw [hrx]; rfl, .inl (by simp [resultDue, hidle])⟩] at hexec
  have haside := (mwiTick_aside u).trans (housekeepingTick_aside (mwiTick u))
  have hlast : u.env.out <+: (housekeepingTick (mwiTick u)).env.out :=
    (mwiTick_run u).kept.out.trans (housekeepingTick_run (r := false) (mwiTick u)).kept.out
  have hw1 : w.env.out = s.env.out ++ [frameWord (BitVec.ofNat 16 (frameCount s)) s] := by rw [hw]; rfl
  have hid : lineId w = lineId s := by rw [hw]; rfl
  have hwords : (raise .fatal w).env.out = s.env.out ++
      [frameWord (BitVec.ofNat 16 (frameCount s)) s, indWord (lineId s) 0xF (.error .fatal)] := by
    rw [raise_out, hw1, hid, List.append_assoc]
    rfl
  have hcleanup : w.mwi.st ≠ .cleanup := by
    rw [hw]
    exact fun hc => absurd (hm.symm.trans hc) (by decide)
  refine ⟨_, hexec, haside.st.trans hidle, ?_, newWords_take hwords (hout.trans hlast), ?_⟩
  · rw [housekeepingTick_rx, mwiTick_done_rx hdone, hrx]
  · rw [← hid]
    exact (((htold hcleanup).after ⟨_, hw1.symm⟩).before hlast).newWords

end Sys2Proof.Machine

namespace Sys2Proof

open Sys2Proof.Machine

/-- Settles O55: `MWINOTIFY` by its branches, a tick by the state of the engine. -/
theorem mwinotifyWord : Obligations.MwinotifyWord := by
  intro s p std samples sends
  have hsends {b pending : Bool} {t : State} (h : Sends b pending s t) : sends b pending t :=
    ⟨h.mwi, h.begun, h.len, h.lenDefault, h.cw, h.tw, h.rx, h.cfg, h.inputs, h.noError⟩
  refine ⟨fun hc b => ?notify, fun h hrx hst txready => ?tick, fun h hrx hst hm hkind => ?spill⟩
  case notify =>
    have hexec := exec_hostMwinotify_of_configured hc b
    have hmay (hf : hasFeature s.cfg .mwiSend = true) :
        mwiMayStart { s with mwi := { s.mwi with msgs := b, pending := true } } = true ↔ QuietForMwi s := by
      rw [mwiMayStart_iff, quietForMwi_latched]
      exact ⟨fun h => h.2.2, fun h => ⟨rfl, hf, h⟩⟩
    refine ⟨fun h => hexec.trans (congrArg _ (hostMwinotifyBody_same h)),
      fun h hf => hexec.trans (congrArg _ (hostMwinotifyBody_unsent h hf)), fun h hf hq => ?latched, fun h hf hrpas hq => ?alert,
      fun h hf hrpas hq hp => ?sent⟩ <;> rw [hexec, hostMwinotifyBody_latched h hf]
    case latched => rw [mwiTryStart_no (Bool.eq_false_iff.mpr fun hy => hq ((hmay hf).mp hy))]
    case alert =>
      rw [mwiTryStart_alert ((hmay hf).mpr hq) hrpas]
      rfl
    case sent =>
      rw [mwiTryStart_spill ((hmay hf).mpr hq) hrpas]
      obtain ⟨hline, hsent⟩ := mwiEnterSendSpill_sends (b := b) (pending := false) (x := s.mwi.st) (f := id) hp s.line rfl
      exact ⟨_, rfl, hline, hsends hsent⟩
  case tick =>
    intro next starts mayStart
    have hmay : mwiMayStart s = true ↔ mayStart := mwiMayStart_iff
    have hno (h : ¬ mayStart) : mwiMayStart s = false := Bool.eq_false_iff.mpr fun hy => h (hmay.mp hy)
    have hsent {b pending : Bool} (h : ∃ t, exec (.timeTick false txready) s = .next t ∧
        t.line = { s.line.ticked s.par with postwin := 0 } ∧ Sends b pending s t) :
        ∃ t, exec (.timeTick false txready) s = .next t ∧ t.line = { s.line.ticked s.par with postwin := 0 } ∧
          sends b pending t := by
      obtain ⟨t, hexec, hline, ht⟩ := h
      exact ⟨t, hexec, hline, hsends ht⟩
    exact ⟨fun hm ha => exec_tick_alertRung h hrx hm ha txready,
      fun hm href hk => exec_tick_alertRefused h hrx hm href hk txready,
      fun hm => exec_tick_counts h.toCountingLine (.inl h.noSpill) hrx (.inr (.inl hm)),
      fun hm hr => exec_tick_paused h hrx hm hr txready,
      fun hm hr hp => hsent (exec_tick_pauseEnds h hrx hm hr hp txready),
      fun hm hkind => exec_tick_spillGone h hrx hm hkind txready,
      fun hm hk => exec_tick_cleanup h hrx hm hk txready,
      fun hm hq => exec_tick_doneRests h hrx hm (hno hq) txready,
      fun hm hq => ⟨fun hrpas => exec_tick_doneAlerts h hrx hm (hmay.mpr hq) hrpas txready,
        fun hrpas hp => hsent (exec_tick_doneSends h hrx hm (hmay.mpr hq) hrpas hp txready)⟩,
      fun hm hk => exec_tick_nullRests h hrx hm (hk.imp id hno) txready,
      fun hm hk hq => ⟨fun hrpas => exec_tick_nullAlerts h hrx hm hk (hmay.mpr hq) hrpas txready,
        fun hrpas hp => hsent (exec_tick_nullSends h hrx hm hk (hmay.mpr hq) hrpas hp txready)⟩⟩
  case spill =>
    intro n
    have hwaits : MwiWaits s := .inr (.inr ⟨hm, hkind⟩)
    exact ⟨fun txready hgo => exec_tick_counts h hgo hrx hwaits,
      fun hgo hpos hrd ha => exec_tick_frame h hgo hrx hwaits hpos hrd ha,
      fun hgo hrd hlast ha => exec_tick_mwiSent h hgo hrx hrd hlast ha hm,
      fun hgo hpos hrd href => exec_tick_mwiRefused h hst hm hgo hpos hrd href⟩

end Sys2Proof

end
